-- ==== Sys2Proof/Word.lean ====
section
/-! DEFINITION. The number and word types of the datapath (spec/00_scope.md R10: arithmetic is over mathematical integers;
spec/20_memory.md R62, R63). Widths are configuration (R7), so numbers that have a parameter for a width are `Nat` or `Int`
with the bound kept as an invariant (log entry 5); what the spec treats as bits is a bit vector. -/

namespace Sys2Proof

/-- A sample: a signed integer amplitude (R13, R63). -/
abbrev Sample := Int

/-- A pulse width, and every register that holds one: an unsigned `CNT_W`-bit integer (R83). -/
abbrev Width := Nat

/-- The byte in progress: eight data bits and, in bit 8, the parity bit (spec/10_state.md R33). -/
abbrev Acc := BitVec 9

/-- A validated byte (R13). -/
abbrev Byte := BitVec 8

/-- The number of accumulated bits, 0 to 10, where 10 means ten or more (spec/10_state.md R34). -/
abbrev BitCount := Fin 11

end Sys2Proof
end

