-- ==== Sys2Proof/Config.lean ====
section
/-! DEFINITION. The implementation parameters (spec/00_scope.md R6, R7). No operation writes any of them (R41); the state carries
them because the spec's state record is "exactly these fields, plus the configuration" (spec/10_state.md R20). The spec leaves
no value open (spec/93_implementation_defined.md), so there is no free value here. -/

namespace Sys2Proof

/-- The parameters of R6 and R7 with the defaults stated there. `kS`, `kM`, `kL` over `kDen` are the exact rationals
`F*M_SHORT`, `F*M_MEDIUM`, `F*M_LONG` of R6. `s0Preset` is read only when `calBypass` holds; R7 gives it no default
(DESIGN CHOICE 0, safe, log entry 3). -/
structure Config where
  edgeThreshold : Int := 2000
  calCount : Nat := 100
  calRank : Nat := 50
  kS : Nat := 110
  kM : Nat := 154
  kL : Nat := 209
  kDen : Nat := 100
  sampleW : Nat := 16
  cntW : Nat := 32
  posW : Nat := 64
  calBypass : Bool := false
  s0Preset : Width := 0
  deriving DecidableEq, Repr

/-- Every parameter at its default (R6, R7). -/
def Config.default : Config := {}

end Sys2Proof
end

