-- ==== Sys2Proof/Syntax.lean ====
section
/-! DEFINITION. The names and encodings' types of the hardware: the symbol codes, the states, the error codes, the 26 operations
(spec/30_encoding.md R80) and the five kinds of selection word (R90 to R94). -/

namespace Sys2Proof

/-- A pulse symbol's code (R84): `Short`, `Medium`, `Long`, `Unknown`. -/
inductive SymCode where
  | short
  | medium
  | long
  | unknown
  deriving DecidableEq, Repr

/-- The state of the block decoder (R85). The reserved code `11` has no constructor (R96, log entry 13). -/
inductive BdState where
  | seek
  | expect
  | read
  deriving DecidableEq, Repr

/-- The phase of a session (R86). The reserved code `11` has no constructor (R96, log entry 13). -/
inductive RunState where
  | run
  | done
  | halt
  deriving DecidableEq, Repr

/-- The cause of a fatal error (R87). The reserved code 7 has no constructor (R96, log entry 13). -/
inductive ErrCode where
  | none
  | expectedM
  | shortByte
  | parity
  | badPair
  | longByte
  | cntOvf
  deriving DecidableEq, Repr

/-- The 26 operations (R80), one constructor per row of spec/opcode_table.json, with the operands their rules name: a sample
`v`, a pulse width `w`, a symbol code `c` with the width `w` it was classified from. -/
inductive Instr where
  | reset
  | idle
  | sample (v : Sample)
  | sampleEos (v : Sample)
  | eos
  | ignore
  | edPrime (v : Sample)
  | edCount (v : Sample)
  | edEdge (v : Sample)
  | edOvf (v : Sample)
  | calCollect (w : Width)
  | calFinish (w : Width)
  | pcShort (w : Width)
  | pcMedium (w : Width)
  | pcLong (w : Width)
  | pcUnknown (w : Width)
  | bdSkip (c : SymCode)
  | bdFoundLong
  | bdStart
  | bdErrExpectedM (c : SymCode) (w : Width)
  | bdLatch (c : SymCode) (w : Width)
  | bdBit0
  | bdBit1
  | bdByteEnd
  | bdDataEnd
  | bdBadPair (c : SymCode) (w : Width)
  deriving DecidableEq, Repr

/-- The top-level operations (R90). -/
inductive TopOp where
  | reset
  | idle
  | sample
  | sampleEos
  | eos
  | ignore
  deriving DecidableEq, Repr

/-- The edge detector's operations (R91). -/
inductive EdOp where
  | prime
  | count
  | edge
  | ovf
  deriving DecidableEq, Repr

/-- The calibrator's operations (R92). -/
inductive CalOp where
  | collect
  | finish
  deriving DecidableEq, Repr

/-- The classifier's operations (R93). -/
inductive PcOp where
  | short
  | medium
  | long
  | unknown
  deriving DecidableEq, Repr

/-- The block decoder's operations (R94). -/
inductive BdOp where
  | skip
  | foundLong
  | start
  | errExpectedM
  | latch
  | bit0
  | bit1
  | byteEnd
  | dataEnd
  | badPair
  deriving DecidableEq, Repr

/-- The five selectors of operations, each with a selection word of its own (R90 to R94). -/
inductive UnitTag where
  | top
  | edge
  | cal
  | cls
  | blk
  deriving DecidableEq, Repr

/-- A selection word of one unit together with the operand that stands on the unit's input: the sample (R90, R91), the pulse
width (R92, R93), or the width that travels with the symbol whose code is in the word (R94, R84). -/
inductive SelWord where
  | top (t : BitVec 5) (v : Sample)
  | edge (e : BitVec 5) (v : Sample)
  | cal (c : BitVec 1) (w : Width)
  | cls (p : BitVec 3) (w : Width)
  | blk (b : BitVec 7) (w : Width)
  deriving DecidableEq, Repr

/-- One row of an operation map (R90 to R94): the word selects `op` when its bits under `mask` are `pat`. -/
structure SelRow (n : Nat) (α : Type) where
  mask : BitVec n
  pat : BitVec n
  op : α
  deriving DecidableEq, Repr

/-- Why the decoder rejects a selection word: the reserved top-level words `0xx11` (last row of R90), the reserved block decoder
words `11xxxxx` (last row of R94), and a word no row of its unit fits (there is none: the maps R91, R92, R93 cover every word). -/
inductive DecodeReject where
  | topReserved (t : BitVec 5)
  | blkReserved (b : BitVec 7)
  | noRow (u : UnitTag)
  deriving DecidableEq, Repr

end Sys2Proof
end

