-- ==== Sys2Proof/WellFormed.lean ====
section
/-! DEFINITION. Which configurations the rules hold for (spec/00_scope.md R8), and which operands an operation can have under a
configuration. -/

namespace Sys2Proof

/-- The constraints of R8 a configuration must meet. The last group is the spec's own remark for the constants `K_*` (R8: the
threshold order holds because `110 < 154 < 209`; R28 and R95: `100 < 2^7`, `209 < 256`), taken as constraints because the
constants are parameters here (DESIGN CHOICE, safe, log entry 3). -/
abbrev Config.Valid (g : Config) : Prop :=
  2 ≤ g.sampleW ∧ 7 ≤ g.cntW ∧ 1 ≤ g.calCount ∧ g.calRank < g.calCount ∧
  -(2 ^ g.sampleW : Int) < g.edgeThreshold ∧ g.edgeThreshold < 2 ^ g.sampleW ∧
  (g.calBypass = true → 1 ≤ g.s0Preset ∧ g.s0Preset < 2 ^ g.cntW) ∧
  1 ≤ g.kDen ∧ g.kDen < 2 ^ 7 ∧ g.kS < g.kM ∧ g.kM < g.kL ∧ g.kL < 2 ^ 8

/-- A sample fits `SAMPLE_W` signed bits (spec/30_encoding.md R82). -/
def sampleFits (g : Config) (v : Sample) : Bool :=
  decide (-(2 ^ (g.sampleW - 1) : Int) ≤ v ∧ v < 2 ^ (g.sampleW - 1))

/-- A pulse width is positive and fits `CNT_W` bits (spec/30_encoding.md R83). -/
def widthFits (g : Config) (w : Width) : Bool :=
  decide (1 ≤ w ∧ w < 2 ^ g.cntW)

/-- The width attached to a symbol fits `CNT_W` bits; it may be 0 where the symbol notation omits it (R97). -/
def symWidthFits (g : Config) (w : Width) : Bool :=
  decide (w < 2 ^ g.cntW)

/-- The operands an operation can have: a sample and a width that fit, and a symbol code its selection rows admit (R94). -/
def Instr.wf (g : Config) : Instr → Bool
  | .reset => true
  | .idle => true
  | .sample v => sampleFits g v
  | .sampleEos v => sampleFits g v
  | .eos => true
  | .ignore => true
  | .edPrime v => sampleFits g v
  | .edCount v => sampleFits g v
  | .edEdge v => sampleFits g v
  | .edOvf v => sampleFits g v
  | .calCollect w => widthFits g w
  | .calFinish w => widthFits g w
  | .pcShort w => widthFits g w
  | .pcMedium w => widthFits g w
  | .pcLong w => widthFits g w
  | .pcUnknown w => widthFits g w
  | .bdSkip c => decide (c ≠ .long)
  | .bdFoundLong => true
  | .bdStart => true
  | .bdErrExpectedM c w => decide (c ≠ .medium) && symWidthFits g w
  | .bdLatch _ w => symWidthFits g w
  | .bdBit0 => true
  | .bdBit1 => true
  | .bdByteEnd => true
  | .bdDataEnd => true
  | .bdBadPair _ w => symWidthFits g w

end Sys2Proof
end

