-- ==== Sys2Proof/Decode.lean ====
section
/-! DEFINITION. Bit encodings (spec/30_encoding.md R84 to R87), the operation maps (R90 to R94) as lists of rows, the decoder of
selection words, total and rejecting by name, and the encoder. The rows are those of the maps in the spec, in their order. -/

namespace Sys2Proof

/-- R84. -/
def SymCode.bits : SymCode → BitVec 2
  | .short => 0b00#2
  | .medium => 0b01#2
  | .long => 0b10#2
  | .unknown => 0b11#2

/-- R84, read backwards. -/
def symOfBits (b : BitVec 2) : SymCode :=
  if b = 0b00#2 then .short else if b = 0b01#2 then .medium else if b = 0b10#2 then .long else .unknown

/-- R85. -/
def BdState.bits : BdState → BitVec 2
  | .seek => 0b00#2
  | .expect => 0b01#2
  | .read => 0b10#2

/-- R85, read backwards; `11` is reserved. -/
def bdStateOfBits (b : BitVec 2) : Option BdState :=
  if b = 0b00#2 then some .seek else if b = 0b01#2 then some .expect else if b = 0b10#2 then some .read else none

/-- R86. -/
def RunState.bits : RunState → BitVec 2
  | .run => 0b00#2
  | .done => 0b01#2
  | .halt => 0b10#2

/-- R86, read backwards; `11` is reserved. -/
def runOfBits (b : BitVec 2) : Option RunState :=
  if b = 0b00#2 then some .run else if b = 0b01#2 then some .done else if b = 0b10#2 then some .halt else none

/-- R87. -/
def ErrCode.bits : ErrCode → BitVec 3
  | .none => 0#3
  | .expectedM => 1#3
  | .shortByte => 2#3
  | .parity => 3#3
  | .badPair => 4#3
  | .longByte => 5#3
  | .cntOvf => 6#3

/-- A row fits a word when the word's bits under the mask are the row's pattern. -/
def SelRow.fits {n : Nat} {α : Type} (r : SelRow n α) (w : BitVec n) : Bool :=
  w &&& r.mask == r.pat

/-- The operation of the first row that fits. The rows of each map do not overlap, so the order decides nothing. -/
def lookupRow {n : Nat} {α : Type} (rows : List (SelRow n α)) (w : BitVec n) : Option α :=
  (rows.find? fun r => r.fits w).map fun r => r.op

/-- The operation map of `T[4:0] = {rst, sample_valid, eos, run[1:0]}` (R90). -/
def topRows : List (SelRow 5 TopOp) :=
  [ ⟨0b10000#5, 0b10000#5, .reset⟩,
    ⟨0b11100#5, 0b00000#5, .idle⟩,
    ⟨0b11111#5, 0b01000#5, .sample⟩,
    ⟨0b11111#5, 0b01100#5, .sampleEos⟩,
    ⟨0b11111#5, 0b00100#5, .eos⟩,
    ⟨0b11011#5, 0b01001#5, .ignore⟩,
    ⟨0b11011#5, 0b01010#5, .ignore⟩,
    ⟨0b11111#5, 0b00101#5, .ignore⟩,
    ⟨0b11111#5, 0b00110#5, .ignore⟩ ]

/-- The operation map of `E[4:0] = {have_prev, d_gt, a_nn, b_neg, cnt_max}` (R91). -/
def edgeRows : List (SelRow 5 EdOp) :=
  [ ⟨0b10000#5, 0b00000#5, .prime⟩,
    ⟨0b10001#5, 0b10001#5, .ovf⟩,
    ⟨0b11111#5, 0b11110#5, .edge⟩,
    ⟨0b11001#5, 0b10000#5, .count⟩,
    ⟨0b11101#5, 0b11000#5, .count⟩,
    ⟨0b11111#5, 0b11100#5, .count⟩ ]

/-- The operation map of `C[0] = {last}` (R92). -/
def calRows : List (SelRow 1 CalOp) :=
  [ ⟨0b1#1, 0b0#1, .collect⟩,
    ⟨0b1#1, 0b1#1, .finish⟩ ]

/-- The operation map of `P[2:0] = {lt_s, lt_m, lt_l}` (R93). Its `x` positions give the priority order, so the words that no
ordered thresholds produce are decoded as the pattern says (log entry 16). -/
def clsRows : List (SelRow 3 PcOp) :=
  [ ⟨0b100#3, 0b100#3, .short⟩,
    ⟨0b110#3, 0b010#3, .medium⟩,
    ⟨0b111#3, 0b001#3, .long⟩,
    ⟨0b111#3, 0b000#3, .unknown⟩ ]

/-- The operation map of `B[6:0] = {bd_state[1:0], ph, h_code[1:0], c[1:0]}` (R94). -/
def blkRows : List (SelRow 7 BdOp) :=
  [ ⟨0b1100011#7, 0b0000000#7, .skip⟩,
    ⟨0b1100011#7, 0b0000001#7, .skip⟩,
    ⟨0b1100011#7, 0b0000011#7, .skip⟩,
    ⟨0b1100011#7, 0b0000010#7, .foundLong⟩,
    ⟨0b1100011#7, 0b0100001#7, .start⟩,
    ⟨0b1100011#7, 0b0100000#7, .errExpectedM⟩,
    ⟨0b1100011#7, 0b0100010#7, .errExpectedM⟩,
    ⟨0b1100011#7, 0b0100011#7, .errExpectedM⟩,
    ⟨0b1110000#7, 0b1000000#7, .latch⟩,
    ⟨0b1111111#7, 0b1010001#7, .bit0⟩,
    ⟨0b1111111#7, 0b1010100#7, .bit1⟩,
    ⟨0b1111111#7, 0b1011001#7, .byteEnd⟩,
    ⟨0b1111111#7, 0b1011000#7, .dataEnd⟩,
    ⟨0b1111111#7, 0b1010000#7, .badPair⟩,
    ⟨0b1111111#7, 0b1010010#7, .badPair⟩,
    ⟨0b1111111#7, 0b1010011#7, .badPair⟩,
    ⟨0b1111111#7, 0b1010101#7, .badPair⟩,
    ⟨0b1111111#7, 0b1010110#7, .badPair⟩,
    ⟨0b1111111#7, 0b1010111#7, .badPair⟩,
    ⟨0b1111111#7, 0b1011010#7, .badPair⟩,
    ⟨0b1111111#7, 0b1011011#7, .badPair⟩,
    ⟨0b1111100#7, 0b1011100#7, .badPair⟩ ]

/-- Which top-level operation a word selects; `none` for the reserved words `0xx11` of R90. -/
def decodeTop (t : BitVec 5) : Option TopOp := lookupRow topRows t

/-- Which edge detector operation a word selects (R91). -/
def decodeEdge (e : BitVec 5) : Option EdOp := lookupRow edgeRows e

/-- Which calibrator operation a word selects (R92). -/
def decodeCal (c : BitVec 1) : Option CalOp := lookupRow calRows c

/-- Which classifier operation a word selects (R93). -/
def decodeCls (p : BitVec 3) : Option PcOp := lookupRow clsRows p

/-- Which block decoder operation a word selects; `none` for the reserved words `11xxxxx` of R94. -/
def decodeBlk (b : BitVec 7) : Option BdOp := lookupRow blkRows b

/-- The operation with its operand, the sample on the port. -/
def TopOp.instr (o : TopOp) (v : Sample) : Instr :=
  match o with
  | .reset => .reset
  | .idle => .idle
  | .sample => .sample v
  | .sampleEos => .sampleEos v
  | .eos => .eos
  | .ignore => .ignore

/-- The operation with its operand, the sample. -/
def EdOp.instr (o : EdOp) (v : Sample) : Instr :=
  match o with
  | .prime => .edPrime v
  | .count => .edCount v
  | .edge => .edEdge v
  | .ovf => .edOvf v

/-- The operation with its operand, the width. -/
def CalOp.instr (o : CalOp) (w : Width) : Instr :=
  match o with
  | .collect => .calCollect w
  | .finish => .calFinish w

/-- The operation with its operand, the width. -/
def PcOp.instr (o : PcOp) (w : Width) : Instr :=
  match o with
  | .short => .pcShort w
  | .medium => .pcMedium w
  | .long => .pcLong w
  | .unknown => .pcUnknown w

/-- The result code of a classifier operation (third column of R93). -/
def PcOp.code (o : PcOp) : SymCode :=
  match o with
  | .short => .short
  | .medium => .medium
  | .long => .long
  | .unknown => .unknown

/-- The operation with its operand, the symbol `(c, w)`. -/
def BdOp.instr (o : BdOp) (c : SymCode) (w : Width) : Instr :=
  match o with
  | .skip => .bdSkip c
  | .foundLong => .bdFoundLong
  | .start => .bdStart
  | .errExpectedM => .bdErrExpectedM c w
  | .latch => .bdLatch c w
  | .bit0 => .bdBit0
  | .bit1 => .bdBit1
  | .byteEnd => .bdByteEnd
  | .dataEnd => .bdDataEnd
  | .badPair => .bdBadPair c w

/-- The symbol code in bits `c[1:0]` of a block decoder word (R94). -/
def blkWordSym (b : BitVec 7) : SymCode := symOfBits (b.extractLsb' 0 2)

/-- The decoder: the operation a selection word selects, with its operand, or the reason it selects none. -/
def decode : SelWord → Except DecodeReject Instr
  | .top t v =>
    match decodeTop t with
    | some o => .ok (o.instr v)
    | none => .error (.topReserved t)
  | .edge e v =>
    match decodeEdge e with
    | some o => .ok (o.instr v)
    | none => .error (.noRow .edge)
  | .cal c w =>
    match decodeCal c with
    | some o => .ok (o.instr w)
    | none => .error (.noRow .cal)
  | .cls p w =>
    match decodeCls p with
    | some o => .ok (o.instr w)
    | none => .error (.noRow .cls)
  | .blk b w =>
    match decodeBlk b with
    | some o => .ok (o.instr (blkWordSym b) w)
    | none => .error (.blkReserved b)

/-- A block decoder word with the symbol code `c` in its low bits (R94). -/
def blkWord (high : BitVec 5) (c : SymCode) : BitVec 7 := high ++ c.bits

/-- The encoder: the selection word of spec/opcode_table.json's row for the operation, its `x` bits 0 where the operand does not
fill them, with the operand on the unit's input. -/
def encode : Instr → SelWord
  | .reset => .top 0b10000#5 0
  | .idle => .top 0b00000#5 0
  | .sample v => .top 0b01000#5 v
  | .sampleEos v => .top 0b01100#5 v
  | .eos => .top 0b00100#5 0
  | .ignore => .top 0b01001#5 0
  | .edPrime v => .edge 0b00000#5 v
  | .edCount v => .edge 0b10000#5 v
  | .edEdge v => .edge 0b11110#5 v
  | .edOvf v => .edge 0b10001#5 v
  | .calCollect w => .cal 0b0#1 w
  | .calFinish w => .cal 0b1#1 w
  | .pcShort w => .cls 0b100#3 w
  | .pcMedium w => .cls 0b010#3 w
  | .pcLong w => .cls 0b001#3 w
  | .pcUnknown w => .cls 0b000#3 w
  | .bdSkip c => .blk (blkWord 0b00000#5 c) 0
  | .bdFoundLong => .blk 0b0000010#7 0
  | .bdStart => .blk 0b0100001#7 0
  | .bdErrExpectedM c w => .blk (blkWord 0b01000#5 c) w
  | .bdLatch c w => .blk (blkWord 0b10000#5 c) w
  | .bdBit0 => .blk 0b1010001#7 0
  | .bdBit1 => .blk 0b1010100#7 0
  | .bdByteEnd => .blk 0b1011001#7 0
  | .bdDataEnd => .blk 0b1011000#7 0
  | .bdBadPair c w => .blk (blkWord (0b101#3 ++ c.bits) c) w

/-- The unit a selection word belongs to. -/
def SelWord.tag : SelWord → UnitTag
  | .top _ _ => .top
  | .edge _ _ => .edge
  | .cal _ _ => .cal
  | .cls _ _ => .cls
  | .blk _ _ => .blk

/-- A selection word's bits as the number spec/opcode_table.json gives (bit 0 least significant). -/
def SelWord.num : SelWord → Nat
  | .top t _ => t.toNat
  | .edge e _ => e.toNat
  | .cal c _ => c.toNat
  | .cls p _ => p.toNat
  | .blk b _ => b.toNat

/-- How many bits a unit's selection word has (R90 to R94). -/
def UnitTag.width : UnitTag → Nat
  | .top => 5
  | .edge => 5
  | .cal => 1
  | .cls => 3
  | .blk => 7

/-- The selection word of a unit with the bits of `n`, its operand 0. -/
def UnitTag.word (u : UnitTag) (n : Nat) : SelWord :=
  match u with
  | .top => .top (BitVec.ofNat 5 n) 0
  | .edge => .edge (BitVec.ofNat 5 n) 0
  | .cal => .cal (BitVec.ofNat 1 n) 0
  | .cls => .cls (BitVec.ofNat 3 n) 0
  | .blk => .blk (BitVec.ofNat 7 n) 0

/-- A table word of `nbits` bits can be a word of the unit: exactly the unit's bits, or those bits filled up to whole bytes. -/
def UnitTag.takes (u : UnitTag) (nbits : Nat) : Bool :=
  nbits == u.width || (decide (0 < nbits) && nbits % 8 == 0)

/-- The `match` word of each row of spec/opcode_table.json, in the table's order. -/
def tableWords : List SelWord :=
  [encode .reset, encode .idle, encode (.sample 0), encode (.sampleEos 0), encode .eos, encode .ignore] ++
  [encode (.edPrime 0), encode (.edCount 0), encode (.edEdge 0), encode (.edOvf 0)] ++
  [encode (.calCollect 0), encode (.calFinish 0)] ++
  [encode (.pcShort 0), encode (.pcMedium 0), encode (.pcLong 0), encode (.pcUnknown 0)] ++
  [encode (.bdSkip .short), encode .bdFoundLong, encode .bdStart, encode (.bdErrExpectedM .short 0),
    encode (.bdLatch .short 0)] ++
  [encode .bdBit0, encode .bdBit1, encode .bdByteEnd, encode .bdDataEnd, encode (.bdBadPair .short 0)]

/-- The word's decoding is an operation. -/
def SelWord.selects (sw : SelWord) : Bool :=
  match decode sw with
  | .ok _ => true
  | .error _ => false

/-- Which unit's selection word a bare number of the table stands for. The table numbers the words of five units alike, so one
number can be a word of several (00 is one of all five): the number is read as the first row, in the table's order, whose own
`match` word it is, and where it is no row's, as a word of the first unit that decodes it (DESIGN CHOICE, safe, log entry 10). -/
def tableWord (nbits n : Nat) : Option SelWord :=
  match tableWords.find? fun sw => sw.tag.takes nbits && sw.num == n with
  | some sw => some sw
  | none =>
    ([UnitTag.top, .edge, .cal, .cls, .blk].filter fun u => u.takes nbits && decide (n < 2 ^ u.width)).map
      (fun u => u.word n) |>.find? fun sw => sw.selects

/-- The operation the decoder reads from a word numbered as spec/opcode_table.json numbers it. -/
def decodeTableWord (nbits w : Nat) : Option Instr :=
  match tableWord nbits w with
  | some sw =>
    match decode sw with
    | .ok i => some i
    | .error _ => none
  | none => none

end Sys2Proof
end

