-- ==== Sys2Proof/Machine/State.lean ====
section
/-! DEFINITION. The state: every register of spec/10_state.md R20, grouped by the owner R20's table gives it, the configuration, and
the model's own three fields that hold the inputs to come and the events emitted (log entries 1 and 2). Reset values are
spec/10_state.md R46. -/

namespace Sys2Proof.Machine

/-- What a step stops with besides a next state: nothing. Every error the spec names is a fatal decode error, whose entry it
describes (spec/60_exceptions.md R215) and which the meanings take as a next state; R212: there are no other faults. -/
inductive Fault where
  deriving DecidableEq, Repr

/-- Why the machine refuses. -/
inductive Refusal where
  /-- An instruction without a meaning; raised by an arm of `exec` only, and no arm raises it. Safe. -/
  | notModelled (mnemonic : String)
  /-- The configuration breaks a constraint of spec/00_scope.md R8; raised by `step` (spec/93_implementation_defined.md U17:
  refuse). Safe. -/
  | badConfig
  /-- A selection word is reserved (spec/30_encoding.md R96, spec/93_implementation_defined.md U2: refuse). Raised by `step` and by
  `SAMPLE`'s selection of a unit operation; no state reaches it, because `run` and `bd_state` have no reserved value. Safe. -/
  | reservedWord (r : DecodeReject)
  deriving DecidableEq, Repr

/-- The edge detector's registers (R21 to R23). -/
structure EdgeRegs where
  havePrev : Bool
  prev : Sample
  cnt : Nat
  deriving DecidableEq, Repr

/-- The calibrator's registers (R25, R26). -/
structure CalRegs where
  calN : Nat
  calBuf : List Width
  deriving DecidableEq, Repr

/-- The classifier's registers (R27 to R29). -/
structure ClsRegs where
  s0 : Width
  thS : Nat
  thM : Nat
  thL : Nat
  thValid : Bool
  deriving DecidableEq, Repr

/-- The block decoder's registers (R30 to R34). -/
structure BlkRegs where
  bdState : BdState
  ph : Bool
  hCode : SymCode
  hW : Width
  acc : Acc
  nbits : BitCount
  deriving DecidableEq, Repr

/-- The error registers (R36 to R38), owned by the top level. -/
structure ErrRegs where
  errCode : ErrCode
  errACode : SymCode
  errAW : Width
  errBCode : SymCode
  errBW : Width
  errN : BitVec 4
  errAcc : Acc
  errPos : Nat
  deriving DecidableEq, Repr

/-- The information a fatal error records; a field an error does not name is 0 (R37, R88). -/
structure ErrInfo where
  aCode : SymCode := .short
  aW : Width := 0
  bCode : SymCode := .short
  bW : Width := 0
  n : BitVec 4 := 0
  acc : Acc := 0
  deriving DecidableEq, Repr

/-- The payload of `DONE` (spec/44_top_level.md R192). -/
structure DoneStatus where
  thValid : Bool
  calN : Nat
  bdState : BdState
  ph : Bool
  nbits : BitCount
  openBlock : Bool
  deriving DecidableEq, Repr

/-- An output event (spec/00_scope.md R12). -/
inductive Event where
  | pulse (w : Width)
  | calDone (s0 : Width)
  | sym (c : SymCode) (w : Width)
  | blockStart
  | byte (v : Byte)
  | blockEnd
  | fatal (code : ErrCode) (info : ErrInfo) (pos : Nat)
  | done (status : DoneStatus)
  deriving DecidableEq, Repr

/-- The input ports at one rising clock edge (spec/30_encoding.md R81). -/
structure Cycle where
  rst : Bool
  sampleValid : Bool
  sample : Int
  eos : Bool
  deriving DecidableEq, Repr

/-- The machine. `cfg` is the configuration (R6, R7), which no operation writes; `ed`, `cal`, `cls`, `bd` are the four units'
registers; `run` (R35), `pos` (R24) and `err` are the top level's. `stim`, `out` and `trace` are the model's own: the inputs of
the clock edges to come, the events of the latest edge, and the events since the last reset. -/
structure State where
  cfg : Config
  ed : EdgeRegs
  cal : CalRegs
  cls : ClsRegs
  bd : BlkRegs
  run : RunState
  pos : Nat
  err : ErrRegs
  stim : List Cycle
  out : List Event
  trace : List Event
  deriving DecidableEq, Repr

/-- R46: no previous sample, counter 0. -/
def EdgeRegs.reset : EdgeRegs := { havePrev := false, prev := 0, cnt := 0 }

/-- R46: nothing collected, every element 0. With `CAL_BYPASS = 1` these registers are absent and stay so (log entry 7). -/
def CalRegs.reset (g : Config) : CalRegs := { calN := 0, calBuf := List.replicate g.calCount 0 }

/-- R46: thresholds absent, or those of `S0_PRESET` when `CAL_BYPASS = 1`. -/
def ClsRegs.reset (g : Config) : ClsRegs :=
  if g.calBypass then
    { s0 := g.s0Preset, thS := g.kS * g.s0Preset, thM := g.kM * g.s0Preset, thL := g.kL * g.s0Preset, thValid := true }
  else
    { s0 := 0, thS := 0, thM := 0, thL := 0, thValid := false }

/-- R46: `SEEK` with an empty accumulator. -/
def BlkRegs.reset : BlkRegs :=
  { bdState := .seek, ph := false, hCode := .short, hW := 0, acc := 0, nbits := 0 }

/-- R46: no error recorded. -/
def ErrRegs.reset : ErrRegs :=
  { errCode := .none, errACode := .short, errAW := 0, errBCode := .short, errBW := 0, errN := 0, errAcc := 0, errPos := 0 }

/-- The state right after a reset under a configuration, with nothing on the inputs and an empty trace (R46, R193). -/
def State.resetWith (g : Config) : State :=
  { cfg := g, ed := EdgeRegs.reset, cal := CalRegs.reset g, cls := ClsRegs.reset g, bd := BlkRegs.reset, run := .run, pos := 0,
    err := ErrRegs.reset, stim := [], out := [], trace := [] }

/-- The state right after reset in the default configuration. -/
def State.reset : State := State.resetWith Config.default

end Sys2Proof.Machine
end

