-- ==== Sys2Proof/Machine/Flags.lean ====
section
/-! DEFINITION. The conditions the operations test. The hardware stores no flags: each is a combinational predicate of the current
inputs and state (spec/10_state.md R40). -/

namespace Sys2Proof.Machine

/-- `d_gt`: the drop `a - b`, formed exactly, is strictly more than the threshold (spec/40_edge_detector.md R111). -/
def dropExceeds (g : Config) (a b : Sample) : Bool := decide (g.edgeThreshold < a - b)

/-- `a_nn`: zero counts as non-negative (R111). -/
def nonNeg (a : Sample) : Bool := decide (0 ≤ a)

/-- `b_neg` (R111). -/
def isNeg (b : Sample) : Bool := decide (b < 0)

/-- The qualifying falling edge predicate `q(a, b)` (R111). -/
def qualifies (g : Config) (a b : Sample) : Bool := dropExceeds g a b && nonNeg a && isNeg b

/-- `cnt_max`: the next increment cannot be represented (spec/30_encoding.md R91). -/
def cntMax (s : State) : Bool := s.ed.cnt == 2 ^ s.cfg.cntW - 1

/-- `last`: this width completes the calibration (spec/30_encoding.md R92). -/
def calLast (s : State) : Bool := s.cal.calN == s.cfg.calCount - 1

/-- The comparison operand `100*w` (spec/30_encoding.md R95). -/
def scaled (g : Config) (w : Width) : Nat := g.kDen * w

/-- `lt_s` (spec/42_pulse_classifier.md R147). -/
def ltS (s : State) (w : Width) : Bool := decide (scaled s.cfg w < s.cls.thS)

/-- `lt_m` (R147). -/
def ltM (s : State) (w : Width) : Bool := decide (scaled s.cfg w < s.cls.thM)

/-- `lt_l` (R147). -/
def ltL (s : State) (w : Width) : Bool := decide (scaled s.cfg w < s.cls.thL)

/-- The number of 1 bits (spec/00_scope.md R11). -/
def popcount (a : Acc) : Nat := ((List.range 9).map fun i => (a.getLsbD i).toNat).sum

/-- The parity predicate: the nine accumulated bits hold an odd number of ones (spec/43_block_decoder.md R170). -/
def parOk (a : Acc) : Bool := popcount a % 2 == 1

/-- The level output `err` (spec/30_encoding.md R81). -/
def errLevel (s : State) : Bool := s.run == .halt

/-- The level output `finished` (spec/30_encoding.md R81). -/
def finishedLevel (s : State) : Bool := s.run == .done

end Sys2Proof.Machine
end

