-- ==== Sys2Proof/Machine/Operands.lean ====
section
/-! DEFINITION. What the operations work on: the ports of the current clock edge, the selection words assembled from inputs and state
(spec/30_encoding.md R90 to R94), and the values assembled from other values (R95). -/

namespace Sys2Proof.Machine

/-- A cycle with no input event (spec/44_top_level.md R194). -/
def Cycle.quiet : Cycle := { rst := false, sampleValid := false, sample := 0, eos := false }

/-- The inputs of the coming clock edge; an exhausted stimulus is idle cycles (DESIGN CHOICE, safe, log entry 1). -/
def nextCycle (s : State) : Cycle := s.stim.headD Cycle.quiet

/-- `int(sample)`: what the `SAMPLE_W` wires of the sample port carry, read as two's complement (R82, spec/20_memory.md R63). An
integer wider than the port is read as its low `SAMPLE_W` bits (DESIGN CHOICE, safe, log entry 6). -/
def portSample (g : Config) (x : Int) : Sample := Int.bmod x (2 ^ g.sampleW)

/-- `T[4:0] = {rst, sample_valid, eos, run[1:0]}` (R90). -/
def topWord (c : Cycle) (r : RunState) : BitVec 5 :=
  BitVec.ofBool c.rst ++ BitVec.ofBool c.sampleValid ++ BitVec.ofBool c.eos ++ r.bits

/-- `E[4:0] = {have_prev, d_gt, a_nn, b_neg, cnt_max}` with `a = int(prev)`, `b = int(v)` (R91). -/
def edgeWord (s : State) (v : Sample) : BitVec 5 :=
  BitVec.ofBool s.ed.havePrev ++ BitVec.ofBool (dropExceeds s.cfg s.ed.prev v) ++ BitVec.ofBool (nonNeg s.ed.prev) ++
    BitVec.ofBool (isNeg v) ++ BitVec.ofBool (cntMax s)

/-- `C[0] = {last}` (R92). -/
def calWord (s : State) : BitVec 1 := BitVec.ofBool (calLast s)

/-- `P[2:0] = {lt_s, lt_m, lt_l}` (R93). -/
def clsWord (s : State) (w : Width) : BitVec 3 :=
  BitVec.ofBool (ltS s w) ++ BitVec.ofBool (ltM s w) ++ BitVec.ofBool (ltL s w)

/-- `B[6:0] = {bd_state[1:0], ph, h_code[1:0], c[1:0]}` (R94). -/
def blockWord (s : State) (c : SymCode) : BitVec 7 :=
  s.bd.bdState.bits ++ BitVec.ofBool s.bd.ph ++ s.bd.hCode.bits ++ c.bits

/-- The selection word the coming clock edge presents at the top level, with the sample on the port. -/
def nextWord (s : State) : SelWord :=
  .top (topWord (nextCycle s) s.run) (portSample s.cfg (nextCycle s).sample)

/-- The state an operation of this clock edge starts from: its inputs are taken from the stimulus, and the strobes of the edge
before, which last one cycle (R81), are gone. -/
def advance (s : State) : State := { s with stim := s.stim.tail, out := [] }

/-- The width of an edge: the counter after this pair's increment (spec/40_edge_detector.md R114, R116). -/
def edgeWidth (s : State) : Width := s.ed.cnt + 1

/-- The byte of an accumulator: bit 0 first received, the parity bit left out (R95, spec/43_block_decoder.md R171). -/
def accByte (a : Acc) : Byte := a.extractLsb' 0 8

/-- The parity bit of an accumulator (spec/43_block_decoder.md R171). -/
def accParityBit (a : Acc) : Bool := a.getLsbD 8

/-- The status word `EOS` reports (spec/44_top_level.md R192). -/
def doneStatus (s : State) : DoneStatus :=
  { thValid := s.cls.thValid, calN := s.cal.calN, bdState := s.bd.bdState, ph := s.bd.ph, nbits := s.bd.nbits,
    openBlock := s.bd.bdState == .read }

end Sys2Proof.Machine
end

