-- ==== Sys2Proof/Machine/Ops.lean ====
section
/-! DEFINITION. The shared operations over the state: sequencing, the calibration buffer, events, the trap entry of a fatal error
(spec/60_exceptions.md R215) and the way out of it (R217), and the bit accumulator. -/

namespace Sys2Proof.Machine

/-- The outcome of a step or of an operation. -/
abbrev Result := Host.Outcome State Fault Refusal

/-- Sub-steps in order, each seeing the writes of the one before (spec/00_scope.md R11). -/
def andThen (r : Result) (f : State → Result) : Result :=
  match r with
  | .next s => f s
  | .fault e => .fault e
  | .refused e => .refused e

/-- `emit EVENT` (spec/00_scope.md R11): the event is a strobe of this clock edge and the newest event of the trace. -/
def emit (e : Event) (s : State) : State := { s with out := s.out ++ [e], trace := s.trace ++ [e] }

/-- `MemRead(i, 1)`: element `i` of the calibration buffer (spec/00_scope.md R11, spec/20_memory.md R61). -/
def memRead (i : Nat) (s : State) : Width := s.cal.calBuf.getD i 0

/-- `MemWrite(i, 1, w)`: one element of the calibration buffer. No index outside the buffer can be formed (R61); the
model leaves the buffer as it is for one (log entry 12). -/
def memWrite (i : Nat) (w : Width) (s : State) : State := { s with cal := { s.cal with calBuf := s.cal.calBuf.set i w } }

/-- `cal_n <- n`. -/
def setCalN (n : Nat) (s : State) : State := { s with cal := { s.cal with calN := n } }

/-- `sort_asc`: non-decreasing order, duplicates kept (spec/00_scope.md R11, spec/41_leader_calibrator.md R133). -/
def sortAsc (l : List Width) : List Width := l.insertionSort (· ≤ ·)

/-- The rank statistic `sort_asc(cal_buf)[CAL_RANK]`, the rank counted from 0 (R133, conflict C1). -/
def rankStatistic (g : Config) (buf : List Width) : Width := (sortAsc buf).getD g.calRank 0

/-- The load of the Threshold Set: `s0`, the three scaled thresholds and `th_valid` together
(spec/41_leader_calibrator.md R132, spec/42_pulse_classifier.md R146). -/
def loadThresholds (ref : Width) (s : State) : State :=
  { s with cls := { s0 := ref, thS := s.cfg.kS * ref, thM := s.cfg.kM * ref, thL := s.cfg.kL * ref, thValid := true } }

/-- `raise Fatal(code, info)`, the trap entry of R215: the machine halts, the cause and its details are latched with the
position of the sample in process, and `FATAL` is emitted. `pos` still holds its value at the start of the `SAMPLE`. -/
def raiseFatal (code : ErrCode) (info : ErrInfo) (s : State) : State :=
  emit (.fatal code info s.pos)
    { s with
      run := .halt,
      err := { errCode := code, errACode := info.aCode, errAW := info.aW, errBCode := info.bCode, errBW := info.bW,
               errN := info.n, errAcc := info.acc, errPos := s.pos } }

/-- The only exit from `HALT` and `DONE` (R217, spec/44_top_level.md R193): every register at its reset value and an empty trace.
The inputs still to come stay. -/
def resetRegisters (s : State) : State := { State.resetWith s.cfg with stim := s.stim }

/-- `pos <- (pos + 1) mod 2^POS_W`, the last line of `SAMPLE` (spec/44_top_level.md R191). -/
def bumpPos (s : State) : State := { s with pos := (s.pos + 1) % 2 ^ s.cfg.posW }

/-- `acc[i] <- bit`. -/
def setAccBit (a : Acc) (i : Nat) (bit : Bool) : Acc :=
  if bit then a ||| (1#9 <<< i) else a &&& ~~~(1#9 <<< i)

/-- One more bit, saturating at 10 (spec/10_state.md R34). -/
def bumpBits (n : BitCount) : BitCount := ⟨min (n.val + 1) 10, by omega⟩

/-- `append(bit)` (spec/43_block_decoder.md R168): up to nine bits are stored, a tenth is counted, more change nothing. -/
def appendBit (bit : Bool) (s : State) : State :=
  { s with bd := { s.bd with
      acc := if s.bd.nbits.val < 9 then setAccBit s.bd.acc s.bd.nbits.val bit else s.bd.acc,
      nbits := bumpBits s.bd.nbits } }

/-- The accumulator emptied: `acc <- 0`, `nbits <- 0` (spec/10_state.md R33). -/
def clearAcc (s : State) : State := { s with bd := { s.bd with acc := 0, nbits := 0 } }

/-- `ph <- b` (spec/10_state.md R31). -/
def setPh (b : Bool) (s : State) : State := { s with bd := { s.bd with ph := b } }

/-- `bd_state <- target`, the control transfer of the block decoder (spec/00_scope.md R11). -/
def setBdState (b : BdState) (s : State) : State := { s with bd := { s.bd with bdState := b } }

/-- `prev <- v` (spec/10_state.md R22). -/
def setPrev (v : Sample) (s : State) : State := { s with ed := { s.ed with prev := v } }

/-- `cnt <- n` (spec/10_state.md R23). -/
def setCnt (n : Nat) (s : State) : State := { s with ed := { s.ed with cnt := n } }

end Sys2Proof.Machine
end

