-- ==== Sys2Proof/Machine/BlockDecoder.lean ====
section
/-! DEFINITION. The block decoder's operations (spec/43_block_decoder.md). A fatal error leaves the block decoder's registers as
they were (R179, spec/60_exceptions.md R215). -/

namespace Sys2Proof.Machine

/-- `BD.SKIP` (R161): no state change, no event, whichever symbol is skipped. -/
def execBdSkip (_c : SymCode) (s : State) : Result := .next s

/-- `BD.FOUND_LONG` (R162). -/
def execBdFoundLong (s : State) : Result := .next (setBdState .expect s)

/-- `BD.START` (R163): reading starts with an empty accumulator, at the first symbol of a pair. -/
def execBdStart (s : State) : Result :=
  .next (emit .blockStart (clearAcc (setPh false (setBdState .read s))))

/-- `BD.ERR_EXPECTED_M` (R164, spec/60_exceptions.md R206). -/
def execBdErrExpectedM (c : SymCode) (w : Width) (s : State) : Result :=
  .next (raiseFatal .expectedM { bCode := c, bW := w } s)

/-- `BD.LATCH` (R165): the first symbol of a pair is held, whatever it is. -/
def execBdLatch (c : SymCode) (w : Width) (s : State) : Result :=
  .next { s with bd := { s.bd with hCode := c, hW := w, ph := true } }

/-- `BD.BIT0` (R166). -/
def execBdBit0 (s : State) : Result := .next (setPh false (appendBit false s))

/-- `BD.BIT1` (R167). -/
def execBdBit1 (s : State) : Result := .next (setPh false (appendBit true s))

/-- `BD.BYTE_END` (R169): the count is tested first, then the parity; a good byte is emitted and the accumulator emptied, and
reading goes on with the next byte (R175). -/
def execBdByteEnd (s : State) : Result :=
  if s.bd.nbits.val < 9 then
    .next (raiseFatal .shortByte { n := BitVec.ofNat 4 s.bd.nbits.val } s)
  else if s.bd.nbits.val = 10 then
    .next (raiseFatal .longByte { n := 10 } s)
  else if parOk s.bd.acc = false then
    .next (raiseFatal .parity { acc := s.bd.acc } s)
  else
    .next (setPh false (clearAcc (emit (.byte (accByte s.bd.acc)) s)))

/-- `BD.DATA_END` (R172): pending bits are dropped without error and the leader is sought again. -/
def execBdDataEnd (s : State) : Result :=
  .next (emit .blockEnd (setBdState .seek (setPh false (clearAcc s))))

/-- `BD.BAD_PAIR` (R173, spec/60_exceptions.md R209): both symbols of the pair are recorded. -/
def execBdBadPair (c : SymCode) (w : Width) (s : State) : Result :=
  .next (raiseFatal .badPair { aCode := s.bd.hCode, aW := s.bd.hW, bCode := c, bW := w } s)

end Sys2Proof.Machine
end

