-- ==== Sys2Proof/Machine/Calibrator.lean ====
section
/-! DEFINITION. The leader calibrator's operations (spec/41_leader_calibrator.md). -/

namespace Sys2Proof.Machine

/-- `CAL.COLLECT` (R131). -/
def execCalCollect (w : Width) (s : State) : Result :=
  .next (setCalN (s.cal.calN + 1) (memWrite s.cal.calN w s))

/-- The buffer with the last width written, `cal_n` at its end (first two lines of R132). -/
def calComplete (w : Width) (s : State) : State :=
  setCalN s.cfg.calCount (memWrite s.cal.calN w s)

/-- `CAL.FINISH` (R132): the last width, the rank statistic over the buffer with that width included, the thresholds. -/
def execCalFinish (w : Width) (s : State) : Result :=
  let t := calComplete w s
  let ref := rankStatistic t.cfg t.cal.calBuf
  .next (emit (.calDone ref) (loadThresholds ref t))

end Sys2Proof.Machine
end

