-- ==== Sys2Proof/Machine/Classifier.lean ====
section
/-! DEFINITION. The pulse classifier's operations (spec/42_pulse_classifier.md). The classifier writes no register (R145): an
operation emits the symbol, which `SAMPLE` passes to the block decoder (spec/44_top_level.md R191). -/

namespace Sys2Proof.Machine

/-- The symbol a classifier operation produces, with the width it was classified from (R157). -/
def emitSym (c : SymCode) (w : Width) (s : State) : State := emit (.sym c w) s

/-- `PC.SHORT` (R148). -/
def execPcShort (w : Width) (s : State) : Result := .next (emitSym .short w s)

/-- `PC.MEDIUM` (R149). -/
def execPcMedium (w : Width) (s : State) : Result := .next (emitSym .medium w s)

/-- `PC.LONG` (R150). -/
def execPcLong (w : Width) (s : State) : Result := .next (emitSym .long w s)

/-- `PC.UNKNOWN` (R151). -/
def execPcUnknown (w : Width) (s : State) : Result := .next (emitSym .unknown w s)

end Sys2Proof.Machine
end

