-- ==== Sys2Proof/Machine/EdgeDetector.lean ====
section
/-! DEFINITION. The edge detector's operations (spec/40_edge_detector.md). -/

namespace Sys2Proof.Machine

/-- `ED.PRIME` (R112): the first sample of a session only becomes the previous one. -/
def execEdPrime (v : Sample) (s : State) : Result :=
  .next { s with ed := { s.ed with prev := v, havePrev := true } }

/-- `ED.COUNT` (R113): one pair examined, no edge. -/
def execEdCount (v : Sample) (s : State) : Result :=
  .next (setPrev v (setCnt (s.ed.cnt + 1) s))

/-- `ED.EDGE` (R114): the incremented counter is the width; the counter restarts. The width's way to the calibrator or the
classifier is `SAMPLE`'s (spec/44_top_level.md R191). -/
def execEdEdge (v : Sample) (s : State) : Result :=
  .next (emit (.pulse (edgeWidth s)) (setPrev v (setCnt 0 s)))

/-- `ED.OVF` (R115): the increment cannot be represented; the counter keeps its value. -/
def execEdOvf (v : Sample) (s : State) : Result :=
  .next (raiseFatal .cntOvf {} (setPrev v s))

end Sys2Proof.Machine
end

