-- ==== Sys2Proof/Machine/TopLevel.lean ====
section
/-! DEFINITION. The top-level operations and the composition of the four units in `SAMPLE` (spec/44_top_level.md). Each unit's
operation is the one the decoder reads from the unit's selection word. -/

namespace Sys2Proof.Machine

/-- One block decoder operation for the symbol `(c, w)` (spec/43_block_decoder.md R160, spec/30_encoding.md R94). -/
def runBlock (c : SymCode) (w : Width) (s : State) : Result :=
  match decodeBlk (blockWord s c) with
  | some .skip => execBdSkip c s
  | some .foundLong => execBdFoundLong s
  | some .start => execBdStart s
  | some .errExpectedM => execBdErrExpectedM c w s
  | some .latch => execBdLatch c w s
  | some .bit0 => execBdBit0 s
  | some .bit1 => execBdBit1 s
  | some .byteEnd => execBdByteEnd s
  | some .dataEnd => execBdDataEnd s
  | some .badPair => execBdBadPair c w s
  | none => .refused (.reservedWord (.blkReserved (blockWord s c)))

/-- One calibrator operation with the width `w` (spec/30_encoding.md R92). -/
def runCal (w : Width) (s : State) : Result :=
  match decodeCal (calWord s) with
  | some .collect => execCalCollect w s
  | some .finish => execCalFinish w s
  | none => .refused (.reservedWord (.noRow .cal))

/-- One classifier operation with the width `w`, then one block decoder operation with its symbol (spec/30_encoding.md R93). -/
def runCls (w : Width) (s : State) : Result :=
  match decodeCls (clsWord s w) with
  | some .short => andThen (execPcShort w s) (runBlock PcOp.short.code w)
  | some .medium => andThen (execPcMedium w s) (runBlock PcOp.medium.code w)
  | some .long => andThen (execPcLong w s) (runBlock PcOp.long.code w)
  | some .unknown => andThen (execPcUnknown w s) (runBlock PcOp.unknown.code w)
  | none => .refused (.reservedWord (.noRow .cls))

/-- Step 2 of R191: a width goes to the calibrator while the thresholds are not loaded, to the classifier after
(spec/41_leader_calibrator.md R135). -/
def runWidth (w : Width) (s : State) : Result :=
  if s.cls.thValid then runCls w s else runCal w s

/-- Steps 1 and 2 of R191: one edge detector operation, and what its width starts downstream. -/
def runEdge (v : Sample) (s : State) : Result :=
  match decodeEdge (edgeWord s v) with
  | some .prime => execEdPrime v s
  | some .count => execEdCount v s
  | some .ovf => execEdOvf v s
  | some .edge => andThen (execEdEdge v s) (runWidth (edgeWidth s))
  | none => .refused (.reservedWord (.noRow .edge))

/-- `RESET` (R193). -/
def execReset (s : State) : Result := .next (resetRegisters s)

/-- `IDLE` (R194): no register changes, no event. -/
def execIdle (s : State) : Result := .next s

/-- `SAMPLE(v)` (R191): the units in dependency order, then the position; the position advances even after a fatal error. -/
def execSample (v : Sample) (s : State) : Result :=
  andThen (runEdge v s) fun t => .next (bumpPos t)

/-- `EOS` (R192): the session ends cleanly; nothing else changes. -/
def execEos (s : State) : Result := .next (emit (.done (doneStatus s)) { s with run := .done })

/-- `SAMPLE_EOS(v)` (R196): the sample in full, then the end of stream if no fatal error was raised. -/
def execSampleEos (v : Sample) (s : State) : Result :=
  andThen (execSample v s) fun t => if t.run = .run then execEos t else .next t

/-- `IGNORE` (R195): an input after the end or after an error changes nothing. -/
def execIgnore (s : State) : Result := .next s

end Sys2Proof.Machine
end

