-- ==== Sys2Proof/Machine/Dispatch.lean ====
section
/-! DEFINITION. One arm per operation of spec/opcode_table.json. -/

namespace Sys2Proof.Machine

def exec (i : Instr) (s : State) : Host.Outcome State Fault Refusal :=
  match i with
  -- top level (spec/30_encoding.md R90)
  | .reset => Sys2Proof.Machine.execReset s
  | .idle => Sys2Proof.Machine.execIdle s
  | .sample v => Sys2Proof.Machine.execSample v s
  | .sampleEos v => Sys2Proof.Machine.execSampleEos v s
  | .eos => Sys2Proof.Machine.execEos s
  | .ignore => Sys2Proof.Machine.execIgnore s
  -- edge detector (R91)
  | .edPrime v => Sys2Proof.Machine.execEdPrime v s
  | .edCount v => Sys2Proof.Machine.execEdCount v s
  | .edEdge v => Sys2Proof.Machine.execEdEdge v s
  | .edOvf v => Sys2Proof.Machine.execEdOvf v s
  -- calibrator (R92)
  | .calCollect w => Sys2Proof.Machine.execCalCollect w s
  | .calFinish w => Sys2Proof.Machine.execCalFinish w s
  -- classifier (R93)
  | .pcShort w => Sys2Proof.Machine.execPcShort w s
  | .pcMedium w => Sys2Proof.Machine.execPcMedium w s
  | .pcLong w => Sys2Proof.Machine.execPcLong w s
  | .pcUnknown w => Sys2Proof.Machine.execPcUnknown w s
  -- block decoder (R94)
  | .bdSkip c => Sys2Proof.Machine.execBdSkip c s
  | .bdFoundLong => Sys2Proof.Machine.execBdFoundLong s
  | .bdStart => Sys2Proof.Machine.execBdStart s
  | .bdErrExpectedM c w => Sys2Proof.Machine.execBdErrExpectedM c w s
  | .bdLatch c w => Sys2Proof.Machine.execBdLatch c w s
  | .bdBit0 => Sys2Proof.Machine.execBdBit0 s
  | .bdBit1 => Sys2Proof.Machine.execBdBit1 s
  | .bdByteEnd => Sys2Proof.Machine.execBdByteEnd s
  | .bdDataEnd => Sys2Proof.Machine.execBdDataEnd s
  | .bdBadPair c w => Sys2Proof.Machine.execBdBadPair c w s

end Sys2Proof.Machine
end

