-- ==== Sys2Proof/Machine/Fetch.lean ====
section
/-! DEFINITION. How a selection word is put in front of the machine: the bits of a selection word ARE inputs and state
(spec/30_encoding.md R90 to R94), so placing a word sets the inputs of the next clock edge and the state bits that form it. A
unit's operation runs inside a `SAMPLE` (spec/44_top_level.md R191), so its word is placed together with a sample that
starts the unit (log entry 11). -/

namespace Sys2Proof.Machine

/-- A clock edge that presents a sample. -/
def sampleCycle (v : Int) : Cycle := { rst := false, sampleValid := true, sample := v, eos := false }

/-- The largest sample, `2^(SAMPLE_W-1) - 1` (R82). -/
def maxSample (g : Config) : Sample := 2 ^ (g.sampleW - 1) - 1

/-- The smallest sample, `-2^(SAMPLE_W-1)` (R82). -/
def minSample (g : Config) : Sample := -(2 ^ (g.sampleW - 1))

/-- The inputs `c` at the next clock edge. -/
def present (c : Cycle) (s : State) : State := { s with stim := c :: s.stim }

/-- Inputs and `run` bits of a top-level word; the reserved `run` bits leave `run` as it is. -/
def placeTop (t : BitVec 5) (v : Sample) (s : State) : State :=
  present { rst := t.getLsbD 4, sampleValid := t.getLsbD 3, sample := v, eos := t.getLsbD 2 }
    { s with run := (runOfBits (t.extractLsb' 0 2)).getD s.run }

/-- A pair of samples, and the registers, that form an edge detector word: `prev` and the sample at the extremes where the word
says the drop exceeds the threshold. -/
def placeEdge (e : BitVec 5) (s : State) : State :=
  let big := e.getLsbD 3
  let a := if e.getLsbD 2 then (if big then maxSample s.cfg else 0) else -1
  let b := if e.getLsbD 1 then (if big then minSample s.cfg else -1) else 0
  let n := if e.getLsbD 0 then 2 ^ s.cfg.cntW - 1 else 0
  present (sampleCycle b) { s with run := .run, ed := { havePrev := e.getLsbD 4, prev := a, cnt := n } }

/-- A sample that completes a pulse of width `w`, the largest drop there is. -/
def placePulse (w : Width) (s : State) : State :=
  present (sampleCycle (minSample s.cfg))
    { s with run := .run, ed := { havePrev := true, prev := maxSample s.cfg, cnt := w - 1 } }

/-- A pulse for the calibrator, as its last width or as its first. -/
def placeCal (c : BitVec 1) (s : State) : State :=
  let n := if c.getLsbD 0 then s.cfg.calCount - 1 else 0
  placePulse 1 { setCalN n s with cls := { s.cls with thValid := false } }

/-- The nominal widths of spec/95_test_vectors.md EXC-1 to EXC-6 for a short pulse of 16 samples. -/
def nominalWidth : SymCode → Width
  | .short => 16
  | .medium => 22
  | .long => 30
  | .unknown => 40

/-- A pulse that is classified as `c`. -/
def placeSymbol (c : SymCode) (s : State) : State := placePulse (nominalWidth c) (loadThresholds 16 s)

/-- The code of the operation a classifier word selects (R93). -/
def placeCls (p : BitVec 3) (s : State) : State :=
  placeSymbol (if p.getLsbD 2 then .short else if p.getLsbD 1 then .medium else if p.getLsbD 0 then .long else .unknown) s

/-- State bits and symbol of a block decoder word; the reserved `bd_state` bits leave `bd_state` as it is. -/
def placeBlk (b : BitVec 7) (s : State) : State :=
  placeSymbol (blkWordSym b)
    { s with bd := { s.bd with
        bdState := (bdStateOfBits (b.extractLsb' 5 2)).getD s.bd.bdState,
        ph := b.getLsbD 4,
        hCode := symOfBits (b.extractLsb' 2 2) } }

/-- The state whose next clock edge forms the selection word. -/
def placeWord (sw : SelWord) (s : State) : State :=
  match sw with
  | .top t v => placeTop t v s
  | .edge e _ => placeEdge e s
  | .cal c _ => placeCal c s
  | .cls p _ => placeCls p s
  | .blk b _ => placeBlk b s

end Sys2Proof.Machine
end

