-- ==== Sys2Proof/Machine/Step.lean ====
section
/-! DEFINITION. One step is one rising clock edge: exactly one top-level operation, selected by the inputs and `run`
(spec/44_top_level.md R190). A configuration outside spec/00_scope.md R8 is refused (spec/93_implementation_defined.md U17). -/

namespace Sys2Proof.Machine

/-- One rising clock edge. -/
def step (s : State) : Host.Outcome State Fault Refusal :=
  if s.cfg.Valid then
    match decode (nextWord s) with
    | .ok i => exec i (advance s)
    | .error r => .refused (.reservedWord r)
  else .refused .badConfig

/-- The state whose next step runs the operation of a table word (log entry 11); a word that decodes to none changes
nothing. -/
def State.withFetchWord (s : State) (nbits w : Nat) : State :=
  match tableWord nbits w with
  | some sw => placeWord sw s
  | none => s

end Sys2Proof.Machine
end

