-- ==== Sys2Proof/Machine/Stimulus.lean ====
section
/-! DEFINITION. The stimulus notation (spec/30_encoding.md R97, R98): sample stimuli, symbol stimuli applied to the block decoder
directly, and the macros. None of it is part of the hardware. -/

namespace Sys2Proof.Machine

/-- A symbol stimulus: codes with the widths they carry (R97). -/
abbrev Symbols := List (SymCode × Width)

/-- A symbol whose width does not matter carries 0 (R97). -/
def bare (c : SymCode) : SymCode × Width := (c, 0)

/-- `LEADER(n)` (R98). -/
def leader (n : Nat) : Symbols := List.replicate n (bare .short)

/-- `START` (R98). -/
def startMarker : Symbols := [bare .long, bare .medium]

/-- `MARK` (R98): the byte boundary marker, the same pair as `START`. -/
def byteMarker : Symbols := [bare .long, bare .medium]

/-- `END` (R98). -/
def endMarker : Symbols := [bare .long, bare .short]

/-- `BIT(b)` (R98). -/
def bitPair (b : Bool) : Symbols := if b then [bare .medium, bare .short] else [bare .short, bare .medium]

/-- `popcount(v[7:0])`. -/
def byteOnes (v : Byte) : Nat := ((List.range 8).map fun i => (v.getLsbD i).toNat).sum

/-- `PAR(v) = 1 - (popcount(v) mod 2)` (R98). -/
def parityFor (v : Byte) : Bool := byteOnes v % 2 == 0

/-- The eight data bits of a byte as pairs, bit 0 first (R98). -/
def dataPairs (v : Byte) : Symbols := (List.range 8).flatMap fun i => bitPair (v.getLsbD i)

/-- `BYTE(v)` (R98), 20 symbols. -/
def byteSymbols (v : Byte) : Symbols := dataPairs v ++ bitPair (parityFor v) ++ byteMarker

/-- `BYTE(v)` with the ninth bit inverted (spec/95_test_vectors.md SRC-5). -/
def byteSymbolsBadParity (v : Byte) : Symbols := dataPairs v ++ bitPair (!parityFor v) ++ byteMarker

/-- A symbol stimulus on the block decoder: one operation per symbol while the machine runs, nothing after
(spec/43_block_decoder.md R160). -/
def runSymbols : Symbols → State → Result
  | [], s => .next s
  | (c, w) :: l, s => if s.run = .run then andThen (runBlock c w s) (runSymbols l) else .next s

/-- The amplitude of the sample macros (R98). -/
def amplitude : Sample := 3000

/-- `PRIME` (R98). -/
def primeSamples : List Sample := [-amplitude]

/-- `P(w)` for `w >= 2` (R98). -/
def pulseSamples (w : Width) : List Sample := List.replicate (w - 1) amplitude ++ [-amplitude]

/-- A sample stimulus: one `SAMPLE` each while the machine runs, nothing after (spec/44_top_level.md R195). -/
def runSamples : List Sample → State → Result
  | [], s => .next s
  | v :: l, s => if s.run = .run then andThen (execSample v s) (runSamples l) else .next s

end Sys2Proof.Machine
end

