-- ==== Sys2Proof/Machine/Ports.lean ====
section
/-! DEFINITION. The output side of the port list (spec/30_encoding.md R81): the event strobes of the latest clock edge, the level
outputs and the read-only status ports (spec/10_state.md R42), and the layout of the `fatal` payload (R88). All are functions of
the state; reading them changes nothing. The delay `LAT` of the strobes is not modelled (spec/70_reset_and_hazards.md R246). -/

namespace Sys2Proof.Machine

/-- The event outputs: a strobe that carries a payload is an `Option` of it (R81, R89). -/
structure OutputPorts where
  pulse : Option Width
  calDone : Bool
  sym : Option (SymCode × Width)
  blkStart : Bool
  byte : Option Byte
  blkEnd : Bool
  fatal : Bool
  done : Bool
  err : Bool
  finished : Bool
  deriving DecidableEq, Repr

/-- The status ports: every register but `cal_buf`, `prev` and `h_w` (spec/10_state.md R42). -/
structure StatusPorts where
  havePrev : Bool
  cnt : Nat
  pos : Nat
  calN : Nat
  s0 : Width
  thS : Nat
  thM : Nat
  thL : Nat
  thValid : Bool
  bdState : BitVec 2
  ph : Bool
  hCode : BitVec 2
  acc : Acc
  nbits : BitVec 4
  run : BitVec 2
  errCode : BitVec 3
  errACode : BitVec 2
  errAW : Width
  errBCode : BitVec 2
  errBW : Width
  errN : BitVec 4
  errAcc : Acc
  errPos : Nat
  deriving DecidableEq, Repr

/-- The width a `PULSE` event carries. -/
def Event.pulseWidth : Event → Option Width
  | .pulse w => some w
  | .calDone _ => none
  | .sym _ _ => none
  | .blockStart => none
  | .byte _ => none
  | .blockEnd => none
  | .fatal _ _ _ => none
  | .done _ => none

/-- The symbol a `SYM` event carries. -/
def Event.symbol : Event → Option (SymCode × Width)
  | .pulse _ => none
  | .calDone _ => none
  | .sym c w => some (c, w)
  | .blockStart => none
  | .byte _ => none
  | .blockEnd => none
  | .fatal _ _ _ => none
  | .done _ => none

/-- The byte a `BYTE` event carries. -/
def Event.byteValue : Event → Option Byte
  | .pulse _ => none
  | .calDone _ => none
  | .sym _ _ => none
  | .blockStart => none
  | .byte v => some v
  | .blockEnd => none
  | .fatal _ _ _ => none
  | .done _ => none

/-- The event is a `CAL_DONE`. -/
def Event.isCalDone : Event → Bool
  | .pulse _ => false
  | .calDone _ => true
  | .sym _ _ => false
  | .blockStart => false
  | .byte _ => false
  | .blockEnd => false
  | .fatal _ _ _ => false
  | .done _ => false

/-- The event is a `FATAL`. -/
def Event.isFatal : Event → Bool
  | .pulse _ => false
  | .calDone _ => false
  | .sym _ _ => false
  | .blockStart => false
  | .byte _ => false
  | .blockEnd => false
  | .fatal _ _ _ => true
  | .done _ => false

/-- The event is a `DONE`. -/
def Event.isDone : Event → Bool
  | .pulse _ => false
  | .calDone _ => false
  | .sym _ _ => false
  | .blockStart => false
  | .byte _ => false
  | .blockEnd => false
  | .fatal _ _ _ => false
  | .done _ => true

/-- The output ports after a clock edge (R81). -/
def outputPorts (s : State) : OutputPorts :=
  { pulse := s.out.findSome? Event.pulseWidth,
    calDone := s.out.any Event.isCalDone,
    sym := s.out.findSome? Event.symbol,
    blkStart := s.out.contains .blockStart,
    byte := s.out.findSome? Event.byteValue,
    blkEnd := s.out.contains .blockEnd,
    fatal := s.out.any Event.isFatal,
    done := s.out.any Event.isDone,
    err := errLevel s,
    finished := finishedLevel s }

/-- The status ports, encoded as R84 to R87 say (spec/10_state.md R42). -/
def statusPorts (s : State) : StatusPorts :=
  { havePrev := s.ed.havePrev, cnt := s.ed.cnt, pos := s.pos, calN := s.cal.calN, s0 := s.cls.s0, thS := s.cls.thS,
    thM := s.cls.thM, thL := s.cls.thL, thValid := s.cls.thValid, bdState := s.bd.bdState.bits, ph := s.bd.ph,
    hCode := s.bd.hCode.bits, acc := s.bd.acc, nbits := BitVec.ofNat 4 s.bd.nbits.val, run := s.run.bits,
    errCode := s.err.errCode.bits, errACode := s.err.errACode.bits, errAW := s.err.errAW,
    errBCode := s.err.errBCode.bits, errBW := s.err.errBW, errN := s.err.errN, errAcc := s.err.errAcc,
    errPos := s.err.errPos }

/-- The payload of the `fatal` strobe, `err_code` in the highest bits (R88). -/
def fatalPayload (s : State) : BitVec (3 + 2 + s.cfg.cntW + 2 + s.cfg.cntW + 4 + 9 + s.cfg.posW) :=
  s.err.errCode.bits ++ s.err.errACode.bits ++ BitVec.ofNat s.cfg.cntW s.err.errAW ++ s.err.errBCode.bits ++
    BitVec.ofNat s.cfg.cntW s.err.errBW ++ s.err.errN ++ s.err.errAcc ++ BitVec.ofNat s.cfg.posW s.err.errPos

end Sys2Proof.Machine
end

