-- ==== Sys2Proof/Machine/Trace.lean ====
section
/-! DEFINITION. What a trace says: the blocks decoded (spec/44_top_level.md R197), how the run ended (R199), and the reference
rendering (spec/30_encoding.md R100). -/

namespace Sys2Proof.Machine

/-- The blocks closed so far, and the byte list of an open one (R197). -/
structure BlockScan where
  closed : List (List Byte)
  cur : Option (List Byte)
  deriving DecidableEq, Repr

/-- One event of the scan (R197). `BYTE` and `BLOCK_END` with no list open do not occur (spec/43_block_decoder.md R178); the scan
passes over them (DESIGN CHOICE, safe, log entry 18). -/
def scanEvent (b : BlockScan) (e : Event) : BlockScan :=
  match e with
  | .pulse _ => b
  | .calDone _ => b
  | .sym _ _ => b
  | .blockStart => { b with cur := some [] }
  | .byte v => { b with cur := b.cur.map fun l => l ++ [v] }
  | .blockEnd =>
    match b.cur with
    | some l => { closed := b.closed ++ [l], cur := none }
    | none => b
  | .fatal _ _ _ => b
  | .done _ => b

/-- The scan of a whole trace. -/
def scanTrace (tr : List Event) : BlockScan := tr.foldl scanEvent { closed := [], cur := none }

/-- `Blocks(trace)`: the closed blocks, in order (R197). -/
def blocks (tr : List Event) : List (List Byte) := (scanTrace tr).closed

/-- The residue: the list still open when the trace ends (R197). Whether a residue before `DONE` counts as a block is left to
the claim; before `FATAL` it is no block. -/
def residue (tr : List Event) : Option (List Byte) := (scanTrace tr).cur

/-- How a session stands (R199). -/
inductive Ending where
  | notEnded
  | clean
  | inError
  deriving DecidableEq, Repr

/-- R199: a session has ended when `run` is not `RUN`, cleanly in `DONE`, in error in `HALT`. -/
def ending (s : State) : Ending :=
  match s.run with
  | .run => .notEnded
  | .done => .clean
  | .halt => .inError

/-- One lowercase hexadecimal digit. -/
def hexDigit (n : Nat) : Char := "0123456789abcdef".toList.getD n '0'

/-- `hex2(b)`: two lowercase hexadecimal digits, high nibble first (R100). -/
def hex2 (b : Byte) : List Char := [hexDigit (b.toNat / 16), hexDigit (b.toNat % 16)]

/-- The reference line of a block (R100): the bytes separated by single spaces, an empty block an empty line. -/
def hexLine (l : List Byte) : List Char := List.intercalate [' '] (l.map hex2)

end Sys2Proof.Machine
end

