-- ==== Sys2Proof/Safety.lean ====
section
/-! DEFINITION. The terms claims are made in: the invariants of the state (spec/10_state.md R45) and of the trace
(spec/20_memory.md R71, spec/43_block_decoder.md R178), the account of the samples (spec/40_edge_detector.md R117, R120), and
when two states agree up to something. -/

namespace Sys2Proof.Machine

/-- The values the constants `K_*` have in this hardware (spec/00_scope.md R6). -/
def Config.SourceConstants (g : Config) : Prop := g.kS = 110 ∧ g.kM = 154 ∧ g.kL = 209 ∧ g.kDen = 100

/-- The invariants of spec/10_state.md R45, with the ranges of the numbers whose widths R20 gives. That `bd_state`, `run` and
`nbits` have no other value is in their types. -/
structure Inv (s : State) : Prop where
  cfg_valid : s.cfg.Valid
  cal_le : s.cal.calN ≤ s.cfg.calCount
  buf_length : s.cal.calBuf.length = s.cfg.calCount
  buf_fits : ∀ w ∈ s.cal.calBuf, w < 2 ^ s.cfg.cntW
  buf_pos : ∀ i, i < s.cal.calN → 1 ≤ memRead i s
  collecting : s.cls.thValid = false → s.cal.calN < s.cfg.calCount ∧ s.cfg.calBypass = false
  loaded : s.cls.thValid = true →
    1 ≤ s.cls.s0 ∧ s.cls.s0 < 2 ^ s.cfg.cntW ∧ s.cls.thS = s.cfg.kS * s.cls.s0 ∧ s.cls.thM = s.cfg.kM * s.cls.s0 ∧
      s.cls.thL = s.cfg.kL * s.cls.s0
  loaded_source : s.cls.thValid = true → Config.SourceConstants s.cfg →
    s.cls.thS = 110 * s.cls.s0 ∧ s.cls.thM = 154 * s.cls.s0 ∧ s.cls.thL = 209 * s.cls.s0
  ordered : s.cls.thValid = true → s.cls.thS < s.cls.thM ∧ s.cls.thM < s.cls.thL
  no_symbol_yet : s.cls.thValid = false →
    s.bd.bdState = .seek ∧ s.bd.ph = false ∧ s.bd.nbits = 0 ∧ s.bd.acc = 0
  acc_high_zero : ∀ i, s.bd.nbits.val ≤ i → s.bd.acc.getLsbD i = false
  acc_empty_outside : s.bd.bdState ≠ .read → s.bd.nbits = 0 ∧ s.bd.acc = 0
  halt_iff_error : s.run = .halt ↔ s.err.errCode ≠ .none
  prev_fits : sampleFits s.cfg s.ed.prev = true
  cnt_fits : s.ed.cnt < 2 ^ s.cfg.cntW
  held_fits : s.bd.hW < 2 ^ s.cfg.cntW
  err_widths_fit : s.err.errAW < 2 ^ s.cfg.cntW ∧ s.err.errBW < 2 ^ s.cfg.cntW
  pos_fits : s.pos < 2 ^ s.cfg.posW ∧ s.err.errPos < 2 ^ s.cfg.posW

/-- The states of all sessions: those a `RESET` under a valid configuration, arbitrary inputs on the ports at any time, and clock
edges lead to. -/
inductive Reachable : State → Prop where
  | reset (g : Config) (h : g.Valid) : Reachable (State.resetWith g)
  | inputs (s : State) (cs : List Cycle) (h : Reachable s) : Reachable { s with stim := cs }
  | edge (s t : State) (h : Reachable s) (e : step s = .next t) : Reachable t

/-- Where a trace stands: inside a block, thresholds loaded, session ended, a `PULSE` whose symbol has not come yet, a `SYM` just
emitted. -/
structure TracePhase where
  inBlock : Bool
  calibrated : Bool
  ended : Bool
  pending : Option Width
  afterSym : Bool
  deriving DecidableEq, Repr

/-- The phase of an empty trace: nothing has happened; the thresholds are there only with `CAL_BYPASS = 1`. -/
def TracePhase.start (g : Config) : TracePhase :=
  { inBlock := false, calibrated := g.calBypass, ended := false, pending := none, afterSym := false }

/-- A calibrated pulse still owes its symbol. -/
def TracePhase.owes (p : TracePhase) : Bool := p.calibrated && p.pending.isSome

/-- The order of events (R71, R72, R178): after `PULSE(w)` comes `CAL_DONE` at most once, before calibration, and `SYM(c, w)` with
that `w` always, after it; `BLOCK_START`, `BYTE`, `BLOCK_END` and a block decoder's `FATAL` follow a `SYM`, start and end alternate
and bytes lie between them; nothing follows `FATAL` or `DONE`. -/
def TracePhase.next (p : TracePhase) (e : Event) : Option TracePhase :=
  if p.ended then none
  else match e with
  | .pulse w => if p.owes then none else some { p with pending := some w, afterSym := false }
  | .calDone _ =>
    if p.calibrated || p.pending.isNone then none
    else some { p with calibrated := true, pending := none, afterSym := false }
  | .sym _ w =>
    if p.calibrated && p.pending == some w then some { p with pending := none, afterSym := true } else none
  | .blockStart => if p.afterSym && !p.inBlock then some { p with inBlock := true, afterSym := false } else none
  | .byte _ => if p.afterSym && p.inBlock then some { p with afterSym := false } else none
  | .blockEnd => if p.afterSym && p.inBlock then some { p with inBlock := false, afterSym := false } else none
  | .fatal code _ _ =>
    if p.owes then none
    else if code = .cntOvf ∨ p.afterSym = true then some { p with ended := true, afterSym := false }
    else none
  | .done st =>
    if p.owes || st.openBlock != p.inBlock then none else some { p with ended := true, afterSym := false }

/-- The phase after a list of events, if their order is right. -/
def TracePhase.run (p : TracePhase) : List Event → Option TracePhase
  | [] => some p
  | e :: l => (p.next e).bind fun q => q.run l

/-- The trace's order is right, and its phase agrees with the registers: a block is open exactly in `READ`, the thresholds are
loaded exactly after `CAL_DONE` or by bypass, the session has ended exactly when `run` is not `RUN`, and no symbol is owed. -/
def TraceInv (s : State) : Prop :=
  ∃ p, (TracePhase.start s.cfg).run s.trace = some p ∧ p.inBlock = (s.bd.bdState == .read) ∧
    p.calibrated = s.cls.thValid ∧ p.ended = (s.run != .run) ∧ p.owes = false

/-- The pulse widths of a trace, in order. -/
def pulses (tr : List Event) : List Width := tr.filterMap Event.pulseWidth

/-- Every width is at least 1 and every one after the first at least 2 (R117): right after an edge the previous sample is negative, so
the next pair cannot qualify. -/
def PulseInv (s : State) : Prop :=
  (∀ w ∈ pulses s.trace, 1 ≤ w) ∧ (∀ w ∈ (pulses s.trace).tail, 2 ≤ w) ∧
    (pulses s.trace ≠ [] → s.ed.cnt = 0 → s.ed.prev < 0) ∧ (s.ed.havePrev = false → pulses s.trace = [])

/-- The account of the accepted samples (R120, R24): one for the priming sample, the widths emitted, the pairs counted since, and
one for the sample an overflow stopped at, modulo `2^POS_W`. -/
def SampleAccount (s : State) : Prop :=
  s.pos =
    ((if s.ed.havePrev then 1 else 0) + (pulses s.trace).sum + s.ed.cnt + (if s.err.errCode = .cntOvf then 1 else 0)) %
      2 ^ s.cfg.posW ∧
    (s.err.errCode ≠ .none → s.run ≠ .run)

/-- The event is one of the four of which a cycle has at most one (R72, R89). -/
def Event.isBlockEvent (e : Event) : Bool :=
  e == .blockStart || e == .blockEnd || e.byteValue.isSome || e.isFatal

/-- Two states agree in everything but the inputs still to come and the strobes of the latest edge. -/
def SameMachine (s t : State) : Prop :=
  t.cfg = s.cfg ∧ t.ed = s.ed ∧ t.cal = s.cal ∧ t.cls = s.cls ∧ t.bd = s.bd ∧ t.run = s.run ∧ t.pos = s.pos ∧
    t.err = s.err ∧ t.trace = s.trace

/-- A cycle with an input event. -/
def Cycle.active (c : Cycle) : Bool := c.rst || c.sampleValid || c.eos

/-- An event without the widths of symbols. -/
def Event.eraseWidth : Event → Event
  | .pulse w => .pulse w
  | .calDone r => .calDone r
  | .sym c _ => .sym c 0
  | .blockStart => .blockStart
  | .byte v => .byte v
  | .blockEnd => .blockEnd
  | .fatal code info pos => .fatal code { info with aW := 0, bW := 0 } pos
  | .done st => .done st

/-- A state without the widths that travel with symbols: those in `h_w`, in the error registers and in the events (R84). -/
def eraseWidths (s : State) : State :=
  { s with
    bd := { s.bd with hW := 0 },
    err := { s.err with errAW := 0, errBW := 0 },
    out := s.out.map Event.eraseWidth,
    trace := s.trace.map Event.eraseWidth }

/-- A state without the held symbol. -/
def eraseHeld (s : State) : State := { s with bd := { s.bd with hCode := .short, hW := 0 } }

end Sys2Proof.Machine
end

