-- ==== Sys2Proof/Certificates/Slice0/Obligations.lean ====
section
/-! DEFINITION. The statements about the model, in the order of OBLIGATIONS.json. Each docstring names the rules of spec/ it
formalises. Record equations give an operation's result and its frame at once: a field not named is unchanged. The inputs to come, the
strobes and the trace are the lists `stim`, `out` and `trace` (log entries 1 and 2), and a step reads the sample through `portSample`,
which is the identity on samples that fit the port (log entry 6). -/

open Sys2Proof Sys2Proof.Machine

/-! ### Reset, the clock edge and the top-level operations -/

/-- spec/44_top_level.md R193 and spec/10_state.md R46: a word with `rst = 1` is `RESET`, whatever its other bits; it gives every
register its reset value from every state, and starts the trace again. That it leaves the inputs still to come (`t.stim = s.stim`) is
the model's choice of log entry 1, and that no strobe is left (`t.out = []`) is that of log entry 2. -/
def Obligations.ResetLoadsEveryRegister : Prop :=
  (∀ (x : BitVec 4) (v : Sample), decode (.top (0b1#1 ++ x) v) = .ok .reset) ∧
  ∀ s : State, ∃ t : State, exec .reset s = .next t ∧
    t.ed = { havePrev := false, prev := 0, cnt := 0 } ∧ t.pos = 0 ∧
    t.cal = { calN := 0, calBuf := List.replicate s.cfg.calCount 0 } ∧
    (s.cfg.calBypass = false → t.cls = { s0 := 0, thS := 0, thM := 0, thL := 0, thValid := false }) ∧
    (s.cfg.calBypass = true → t.cls.s0 = s.cfg.s0Preset ∧ t.cls.thValid = true ∧ t.cls.thS = s.cfg.kS * s.cfg.s0Preset ∧
      t.cls.thM = s.cfg.kM * s.cfg.s0Preset ∧ t.cls.thL = s.cfg.kL * s.cfg.s0Preset ∧
      (Config.SourceConstants s.cfg → t.cls.thS = 110 * s.cfg.s0Preset ∧ t.cls.thM = 154 * s.cfg.s0Preset ∧
        t.cls.thL = 209 * s.cfg.s0Preset)) ∧
    t.bd = { bdState := .seek, ph := false, hCode := .short, hW := 0, acc := 0, nbits := 0 } ∧ t.run = .run ∧
    t.err = { errCode := .none, errACode := .short, errAW := 0, errBCode := .short, errBW := 0, errN := 0, errAcc := 0,
              errPos := 0 } ∧
    t.trace = [] ∧ t.out = [] ∧ t.stim = s.stim ∧ t.cfg = s.cfg

/-- spec/00_scope.md R6, R7 (defaults) and R8 (constraints); the state after reset is what `RESET` gives in the default
configuration. That nothing is on the inputs then is the model's choice (log entry 1), and so is `s0Preset := 0`, for which R7 gives
no default (log entry 3). -/
def Obligations.ResetStateHasTheDefaultConfiguration : Prop :=
  State.reset.cfg = { edgeThreshold := 2000, calCount := 100, calRank := 50, kS := 110, kM := 154, kL := 209, kDen := 100,
                      sampleW := 16, cntW := 32, posW := 64, calBypass := false, s0Preset := 0 } ∧
  State.reset.cfg.Valid ∧
  ∀ s : State, s.cfg = Config.default → s.stim = [] → exec .reset s = .next State.reset

/-- spec/44_top_level.md R190 with spec/30_encoding.md R90: at every clock edge the word formed from `rst`, `sample_valid`, `eos`
and `run` decodes to exactly one operation, and the step is that operation. The model's choices in this statement: the inputs are
the list `stim`, whose head is this edge's and whose tail is left (log entry 1), the strobes of the edge before are dropped from `out`
(log entry 2), and the sample operand is the port's reading of the head's integer (log entry 6). -/
def Obligations.StepRunsTheDecodedOperation : Prop :=
  (∀ s : State, nextWord s =
    .top (BitVec.ofBool (nextCycle s).rst ++ BitVec.ofBool (nextCycle s).sampleValid ++ BitVec.ofBool (nextCycle s).eos ++
      s.run.bits) (portSample s.cfg (nextCycle s).sample)) ∧
  (∀ s : State, ∃ i, decode (nextWord s) = .ok i) ∧
  ∀ (s : State) (i : Instr), s.cfg.Valid → decode (nextWord s) = .ok i →
    step s = exec i { s with stim := s.stim.tail, out := [] }

/-- spec/30_encoding.md R90: which operation the inputs and `run` select, and the reserved words. -/
def Obligations.TopLevelSelection : Prop :=
  (∀ (c : Cycle) (r : RunState) (v : Sample),
    decode (.top (BitVec.ofBool c.rst ++ BitVec.ofBool c.sampleValid ++ BitVec.ofBool c.eos ++ r.bits) v) =
      .ok (if c.rst then .reset
        else if c.sampleValid = false ∧ c.eos = false then .idle
        else if r ≠ .run then .ignore
        else if c.sampleValid = false then .eos
        else if c.eos then .sampleEos v
        else .sample v)) ∧
  ∀ (a b : Bool) (v : Sample), (a = true ∨ b = true) →
    decode (.top (0b0#1 ++ BitVec.ofBool a ++ BitVec.ofBool b ++ 0b11#2) v) =
      .error (.topReserved (0b0#1 ++ BitVec.ofBool a ++ BitVec.ofBool b ++ 0b11#2))

/-- spec/93_implementation_defined.md U17 with spec/00_scope.md R8, and spec/60_exceptions.md R212: a step is refused exactly in a
configuration that is not `Config.Valid`; in any other every state goes on. Refusing outside R8 is what U17 asks of a model (log
entry 4). `Config.Valid` also asks for the order and the widths of the constants `K_*`, which is the model's choice (log entry 3). -/
def Obligations.EveryStepAnswersInAValidConfiguration : Prop :=
  (∀ s : State, s.cfg.Valid → ∃ t, step s = .next t) ∧
  ∀ s : State, ¬ s.cfg.Valid → step s = .refused .badConfig

/-- spec/44_top_level.md R194, first two sentences: no register changes, no event. -/
def Obligations.IdleChangesNothing : Prop :=
  (∀ (r : BitVec 2) (v : Sample), decode (.top (0b000#3 ++ r) v) = .ok .idle) ∧
  (∀ s : State, exec .idle s = .next s) ∧
  ∀ s : State, s.cfg.Valid → (nextCycle s).active = false → ∃ t, step s = .next t ∧ SameMachine s t ∧ t.out = []

/-- spec/44_top_level.md R195: in `DONE` and in `HALT` a sample or an end of stream changes no register and emits no event. -/
def Obligations.InputAfterTheEndIsIgnored : Prop :=
  (∀ (x : BitVec 1) (v : Sample),
    decode (.top (0b01#2 ++ x ++ 0b01#2) v) = .ok .ignore ∧ decode (.top (0b01#2 ++ x ++ 0b10#2) v) = .ok .ignore ∧
    decode (.top 0b00101#5 v) = .ok .ignore ∧ decode (.top 0b00110#5 v) = .ok .ignore) ∧
  (∀ s : State, exec .ignore s = .next s) ∧
  ∀ s : State, s.cfg.Valid → s.run ≠ .run → (nextCycle s).rst = false →
    ((nextCycle s).sampleValid = true ∨ (nextCycle s).eos = true) →
    ∃ t, step s = .next t ∧ SameMachine s t ∧ t.out = []

/-- spec/44_top_level.md R192 (and so spec/40_edge_detector.md R118, spec/41_leader_calibrator.md R137,
spec/43_block_decoder.md R180): the end of stream sets `run` and reports the status; nothing else changes, in any state. -/
def Obligations.EosEndsTheSessionCleanly : Prop :=
  (∀ v : Sample, decode (.top 0b00100#5 v) = .ok .eos) ∧
  ∀ s : State, exec .eos s = .next
    { s with
      run := .done,
      out := s.out ++ [.done { thValid := s.cls.thValid, calN := s.cal.calN, bdState := s.bd.bdState, ph := s.bd.ph,
                               nbits := s.bd.nbits, openBlock := decide (s.bd.bdState = .read) }],
      trace := s.trace ++ [.done { thValid := s.cls.thValid, calN := s.cal.calN, bdState := s.bd.bdState, ph := s.bd.ph,
                                   nbits := s.bd.nbits, openBlock := decide (s.bd.bdState = .read) }] }

/-- spec/44_top_level.md R196: the sample in full, then the end of stream if `run` is still `RUN`. -/
def Obligations.SampleEosIsSampleThenEos : Prop :=
  (∀ v : Sample, decode (.top 0b01100#5 v) = .ok (.sampleEos v)) ∧
  ∀ (s : State) (v : Sample), ∃ t, exec (.sample v) s = .next t ∧
    (t.run = .run → ∃ u, exec .eos t = .next u ∧ exec (.sampleEos v) s = .next u) ∧
    (t.run ≠ .run → exec (.sampleEos v) s = .next t)

/-- spec/44_top_level.md R191: one edge detector operation; a width goes to one calibrator operation while the thresholds are not
loaded, to one classifier operation after, whose symbol goes to one block decoder operation; each unit sees the writes of the one
before; the position advances last; a fatal error raised on the way latches the position the sample started from. -/
def Obligations.SampleRunsTheUnitsInOrder : Prop :=
  (∀ v : Sample, decode (.top 0b01000#5 v) = .ok (.sample v)) ∧
  ∀ (s : State) (v : Sample), ∃ (i : Instr) (s1 : State),
    decode (.edge (edgeWord s v) v) = .ok i ∧ exec i s = .next s1 ∧
    (i ≠ .edEdge v → exec (.sample v) s = .next { s1 with pos := (s.pos + 1) % 2 ^ s.cfg.posW }) ∧
    (i = .edEdge v → s.cls.thValid = false → ∃ (j : Instr) (s2 : State),
      decode (.cal (calWord s1) (s.ed.cnt + 1)) = .ok j ∧ exec j s1 = .next s2 ∧
      exec (.sample v) s = .next { s2 with pos := (s.pos + 1) % 2 ^ s.cfg.posW }) ∧
    (i = .edEdge v → s.cls.thValid = true → ∃ (j : Instr) (c : SymCode) (s2 : State) (k : Instr) (s3 : State),
      decode (.cls (clsWord s1 (s.ed.cnt + 1)) (s.ed.cnt + 1)) = .ok j ∧ exec j s1 = .next s2 ∧
      s2.out = s1.out ++ [.sym c (s.ed.cnt + 1)] ∧
      decode (.blk (blockWord s2 c) (s.ed.cnt + 1)) = .ok k ∧ exec k s2 = .next s3 ∧
      exec (.sample v) s = .next { s3 with pos := (s.pos + 1) % 2 ^ s.cfg.posW }) ∧
    ∀ t, exec (.sample v) s = .next t → s.run ≠ .halt → t.run = .halt →
      t.err.errPos = s.pos ∧ t.ed.prev = v ∧ t.pos = (s.pos + 1) % 2 ^ s.cfg.posW

/-! ### The edge detector -/

/-- spec/30_encoding.md R91 with the predicate of spec/40_edge_detector.md R111: which operation a sample selects. -/
def Obligations.EdgeDetectorSelection : Prop :=
  (∀ (s : State) (v : Sample), edgeWord s v =
    BitVec.ofBool s.ed.havePrev ++ BitVec.ofBool (decide (s.ed.prev - v > s.cfg.edgeThreshold)) ++
      BitVec.ofBool (decide (0 ≤ s.ed.prev)) ++ BitVec.ofBool (decide (v < 0)) ++
      BitVec.ofBool (decide (s.ed.cnt = 2 ^ s.cfg.cntW - 1))) ∧
  ∀ (s : State) (v : Sample), decode (.edge (edgeWord s v) v) =
    .ok (if s.ed.havePrev = false then .edPrime v
      else if s.ed.cnt = 2 ^ s.cfg.cntW - 1 then .edOvf v
      else if s.ed.prev - v > s.cfg.edgeThreshold ∧ 0 ≤ s.ed.prev ∧ v < 0 then .edEdge v
      else .edCount v)

/-- spec/40_edge_detector.md R112: the first sample becomes the previous one; nothing is counted or emitted. -/
def Obligations.PrimeStoresTheFirstSample : Prop :=
  (∀ (x : BitVec 4) (v : Sample), decode (.edge (0b0#1 ++ x) v) = .ok (.edPrime v)) ∧
  ∀ (s : State) (v : Sample),
    exec (.edPrime v) s = .next { s with ed := { havePrev := true, prev := v, cnt := s.ed.cnt } }

/-- spec/40_edge_detector.md R113: a pair that is no edge is counted. -/
def Obligations.CountExaminesOnePair : Prop :=
  (∀ (x : BitVec 2) (y : BitVec 1) (v : Sample), decode (.edge (0b10#2 ++ x ++ 0b0#1) v) = .ok (.edCount v) ∧
    decode (.edge (0b110#3 ++ y ++ 0b0#1) v) = .ok (.edCount v) ∧ decode (.edge 0b11100#5 v) = .ok (.edCount v)) ∧
  ∀ (s : State) (v : Sample),
    exec (.edCount v) s = .next { s with ed := { havePrev := s.ed.havePrev, prev := v, cnt := s.ed.cnt + 1 } }

/-- spec/40_edge_detector.md R114: the incremented counter is the width, and the counter restarts; the width goes on to the calibrator
while the thresholds are not loaded, to the classifier after. -/
def Obligations.EdgeEmitsTheWidthAndRestartsTheCounter : Prop :=
  (∀ v : Sample, decode (.edge 0b11110#5 v) = .ok (.edEdge v)) ∧
  ∀ (s : State) (v : Sample),
    exec (.edEdge v) s = .next
      { s with
        ed := { havePrev := s.ed.havePrev, prev := v, cnt := 0 },
        out := s.out ++ [.pulse (s.ed.cnt + 1)],
        trace := s.trace ++ [.pulse (s.ed.cnt + 1)] } ∧
    (decode (.edge (edgeWord s v) v) = .ok (.edEdge v) → ∃ t u, exec (.edEdge v) s = .next t ∧
      (if s.cls.thValid then runCls (s.ed.cnt + 1) t else runCal (s.ed.cnt + 1) t) = .next u ∧
      exec (.sample v) s = .next { u with pos := (s.pos + 1) % 2 ^ s.cfg.posW })

/-- spec/40_edge_detector.md R115 and spec/60_exceptions.md R211: an increment past the maximum halts the machine; the counter keeps
its value, and nothing but the position is recorded. -/
def Obligations.CounterOverflowHalts : Prop :=
  (∀ (x : BitVec 3) (v : Sample), decode (.edge (0b1#1 ++ x ++ 0b1#1) v) = .ok (.edOvf v)) ∧
  ∀ (s : State) (v : Sample),
    exec (.edOvf v) s = .next
      { s with
        ed := { havePrev := s.ed.havePrev, prev := v, cnt := s.ed.cnt },
        run := .halt,
        err := { errCode := .cntOvf, errACode := .short, errAW := 0, errBCode := .short, errBW := 0, errN := 0, errAcc := 0,
                 errPos := s.pos },
        out := s.out ++ [.fatal .cntOvf {} s.pos],
        trace := s.trace ++ [.fatal .cntOvf {} s.pos] }

/-- spec/40_edge_detector.md R117 (an inference the spec marks as its own) as an invariant: in every step from a state where all widths emitted are at least 1, all after the
first at least 2, and the previous sample is negative right after an edge, the same holds. -/
def Obligations.StepKeepsPulseWidthBounds : Prop :=
  ∀ s t : State, Inv s → PulseInv s → step s = .next t → PulseInv t

/-- spec/40_edge_detector.md R120 (an inference the spec marks as its own) and spec/10_state.md R24: from every state in which the position is the sum of the samples the
widths, the pending count and the priming sample account for, every step keeps the account. -/
def Obligations.StepKeepsTheAccountOfSamples : Prop :=
  ∀ s t : State, Inv s → SampleAccount s → step s = .next t → SampleAccount t

/-- spec/30_encoding.md R98 with spec/40_edge_detector.md R120 (an inference the spec marks as its own): after a negative sample with nothing counted, the samples of `P(w)` give
exactly one pulse, of width `w`, at its last sample. -/
def Obligations.MacroPulseGivesExactlyOneWidth : Prop :=
  ∀ (s : State) (w : Width), Inv s → s.run = .run → s.ed.havePrev = true → s.ed.prev < 0 → s.ed.cnt = 0 →
    s.cfg.edgeThreshold < 6000 → 2 ≤ w → w < 2 ^ s.cfg.cntW →
    ∃ t, runSamples (pulseSamples w) s = .next t ∧ pulses t.trace = pulses s.trace ++ [w] ∧
      t.ed = { havePrev := true, prev := -3000, cnt := 0 } ∧ t.pos = (s.pos + w) % 2 ^ s.cfg.posW

/-! ### The leader calibrator -/

/-- spec/30_encoding.md R92: the width that completes the buffer selects `CAL.FINISH`, every earlier one `CAL.COLLECT`. -/
def Obligations.CalibratorSelection : Prop :=
  (∀ w : Width, decode (.cal 0b0#1 w) = .ok (.calCollect w) ∧ decode (.cal 0b1#1 w) = .ok (.calFinish w)) ∧
  ∀ (s : State) (w : Width), decode (.cal (calWord s) w) =
    .ok (if s.cal.calN = s.cfg.calCount - 1 then .calFinish w else .calCollect w)

/-- spec/41_leader_calibrator.md R131 and spec/20_memory.md R61 (write): the width goes to element `cal_n` and to no other; no symbol,
no event. -/
def Obligations.CollectStoresTheWidth : Prop :=
  (∀ w : Width, decode (.cal 0b0#1 w) = .ok (.calCollect w)) ∧
  ∀ (s : State) (w : Width), s.cal.calN < s.cal.calBuf.length →
    ∃ t, exec (.calCollect w) s = .next t ∧ t.cal.calN = s.cal.calN + 1 ∧ memRead s.cal.calN t = w ∧
      (∀ i, i ≠ s.cal.calN → memRead i t = memRead i s) ∧ t.cal.calBuf.length = s.cal.calBuf.length ∧
      t.ed = s.ed ∧ t.cls = s.cls ∧ t.bd = s.bd ∧ t.run = s.run ∧ t.pos = s.pos ∧ t.err = s.err ∧ t.cfg = s.cfg ∧
      t.stim = s.stim ∧ t.out = s.out ∧ t.trace = s.trace

/-- spec/41_leader_calibrator.md R132 with the rank statistic of R133: the last width is stored, the reference width is the element of
0-based rank `CAL_RANK` of the buffer in ascending order with that width included, and the thresholds are loaded. -/
def Obligations.FinishLoadsTheThresholds : Prop :=
  (∀ w : Width, decode (.cal 0b1#1 w) = .ok (.calFinish w)) ∧
  ∀ (s : State) (w : Width), s.cfg.calRank < s.cal.calBuf.length → s.cal.calN < s.cal.calBuf.length →
    ∃ (t : State) (sorted : List Width) (ref : Width), exec (.calFinish w) s = .next t ∧
      t.cal.calN = s.cfg.calCount ∧ memRead s.cal.calN t = w ∧ (∀ i, i ≠ s.cal.calN → memRead i t = memRead i s) ∧
      sorted.Perm t.cal.calBuf ∧ sorted.Pairwise (· ≤ ·) ∧ sorted[s.cfg.calRank]? = some ref ∧
      t.cls = { s0 := ref, thS := s.cfg.kS * ref, thM := s.cfg.kM * ref, thL := s.cfg.kL * ref, thValid := true } ∧
      (Config.SourceConstants s.cfg → t.cls.thS = 110 * ref ∧ t.cls.thM = 154 * ref ∧ t.cls.thL = 209 * ref) ∧
      t.out = s.out ++ [.calDone ref] ∧ t.trace = s.trace ++ [.calDone ref] ∧ t.ed = s.ed ∧ t.bd = s.bd ∧ t.run = s.run ∧
      t.pos = s.pos ∧ t.err = s.err ∧ t.cfg = s.cfg ∧ t.stim = s.stim

/-- spec/70_reset_and_hazards.md R237 (an inference the spec marks as its own) and spec/41_leader_calibrator.md R133: a width is the reference exactly when at most `CAL_RANK` of
the widths are smaller than it and more than `CAL_RANK` are smaller than or equal to it; so the order of arrival does not matter. -/
def Obligations.ReferenceWidthIsTheRankStatistic : Prop :=
  ∀ (g : Config) (buf : List Width), g.calRank < buf.length →
    (∀ x : Width, rankStatistic g buf = x ↔
      buf.countP (fun w => decide (w < x)) ≤ g.calRank ∧ g.calRank < buf.countP (fun w => decide (w ≤ x))) ∧
    ∀ buf' : List Width, buf'.Perm buf → rankStatistic g buf' = rankStatistic g buf

/-- spec/41_leader_calibrator.md R134: once the thresholds are loaded, no step but a reset changes them, the reference width or the
calibrator. -/
def Obligations.ThresholdsNeverChangeOnceLoaded : Prop :=
  ∀ s t : State, s.cls.thValid = true → (nextCycle s).rst = false → step s = .next t → t.cls = s.cls ∧ t.cal = s.cal

/-- spec/41_leader_calibrator.md R135: while the calibrator collects, a sample produces no symbol and does not reach the block decoder. -/
def Obligations.CalibrationPulsesAreNotClassified : Prop :=
  ∀ (s t : State) (v : Sample), s.cls.thValid = false → exec (.sample v) s = .next t →
    t.bd = s.bd ∧ ∃ evs, t.trace = s.trace ++ evs ∧ ∀ e ∈ evs, e.symbol = none ∧ e.byteValue = none ∧ e ≠ .blockStart ∧
      e ≠ .blockEnd

/-! ### The pulse classifier -/

/-- spec/42_pulse_classifier.md R148 to R151 and spec/30_encoding.md R93: the words of the four operations, and their results: the
symbol is emitted with its width, nothing else changes, and the symbol goes on to the block decoder. -/
def Obligations.ClassifierOperationsEmitTheSymbol : Prop :=
  (∀ (x : BitVec 2) (y : BitVec 1) (w : Width), decode (.cls (0b1#1 ++ x) w) = .ok (.pcShort w) ∧
    decode (.cls (0b01#2 ++ y) w) = .ok (.pcMedium w) ∧ decode (.cls 0b001#3 w) = .ok (.pcLong w) ∧
    decode (.cls 0b000#3 w) = .ok (.pcUnknown w)) ∧
  (∀ (s : State) (w : Width), ∃ (j : Instr) (c : SymCode) (t : State), decode (.cls (clsWord s w) w) = .ok j ∧
    exec j s = .next t ∧ t.out = s.out ++ [.sym c w] ∧ runCls w s = runBlock c w t) ∧
  ∀ (s : State) (w : Width),
    exec (.pcShort w) s = .next { s with out := s.out ++ [.sym .short w], trace := s.trace ++ [.sym .short w] } ∧
    exec (.pcMedium w) s = .next { s with out := s.out ++ [.sym .medium w], trace := s.trace ++ [.sym .medium w] } ∧
    exec (.pcLong w) s = .next { s with out := s.out ++ [.sym .long w], trace := s.trace ++ [.sym .long w] } ∧
    exec (.pcUnknown w) s = .next { s with out := s.out ++ [.sym .unknown w], trace := s.trace ++ [.sym .unknown w] }

/-- spec/30_encoding.md R93: the word is formed from the three strict comparisons of `K_DEN*w` (`100*w` with this hardware's
constants) with the scaled thresholds, and selects the first that holds. -/
def Obligations.ClassifierSelection : Prop :=
  (∀ (s : State) (w : Width), clsWord s w =
    BitVec.ofBool (decide (s.cfg.kDen * w < s.cls.thS)) ++ BitVec.ofBool (decide (s.cfg.kDen * w < s.cls.thM)) ++
      BitVec.ofBool (decide (s.cfg.kDen * w < s.cls.thL))) ∧
  (∀ (s : State) (w : Width), decode (.cls (clsWord s w) w) =
    .ok (if s.cfg.kDen * w < s.cls.thS then .pcShort w
      else if s.cfg.kDen * w < s.cls.thM then .pcMedium w
      else if s.cfg.kDen * w < s.cls.thL then .pcLong w
      else .pcUnknown w)) ∧
  (∀ (s : State) (w : Width), Config.SourceConstants s.cfg → decode (.cls (clsWord s w) w) =
    .ok (if 100 * w < s.cls.thS then .pcShort w
      else if 100 * w < s.cls.thM then .pcMedium w
      else if 100 * w < s.cls.thL then .pcLong w
      else .pcUnknown w)) ∧
  PcOp.short.code.bits = 0b00#2 ∧ PcOp.medium.code.bits = 0b01#2 ∧ PcOp.long.code.bits = 0b10#2 ∧
    PcOp.unknown.code.bits = 0b11#2

/-- spec/42_pulse_classifier.md R146, R147 (an inference the spec marks as its own): with this hardware's constants and the thresholds loaded, each integer comparison is exactly
the comparison with the rational threshold `S0 * 1.1`, `S0 * 1.1 * 1.4`, `S0 * 1.1 * 1.9`. -/
def Obligations.ComparatorsAreTheRationalComparisons : Prop :=
  ∀ (s : State) (w : Width), Inv s → s.cls.thValid = true → Config.SourceConstants s.cfg →
    (ltS s w = true ↔ 100 * w < s.cls.thS) ∧ (ltM s w = true ↔ 100 * w < s.cls.thM) ∧
    (ltL s w = true ↔ 100 * w < s.cls.thL) ∧
    (ltS s w = true ↔ (w : ℚ) < s.cls.s0 * (11 / 10)) ∧
    (ltM s w = true ↔ (w : ℚ) < s.cls.s0 * (11 / 10) * (14 / 10)) ∧
    (ltL s w = true ↔ (w : ℚ) < s.cls.s0 * (11 / 10) * (19 / 10))

/-- spec/42_pulse_classifier.md R152 (an inference the spec marks as its own): once the thresholds are loaded only the four thermometer words occur. -/
def Obligations.OnlyThermometerWordsOccur : Prop :=
  ∀ (s : State) (w : Width), Inv s → s.cls.thValid = true →
    clsWord s w = 0b111#3 ∨ clsWord s w = 0b011#3 ∨ clsWord s w = 0b001#3 ∨ clsWord s w = 0b000#3

/-- spec/42_pulse_classifier.md R153 (an inference the spec marks as its own): a smaller width never gets a larger category, in the order Short, Medium, Long, Unknown. -/
def Obligations.ClassificationIsMonotone : Prop :=
  ∀ (s : State) (w1 w2 : Width) (o1 o2 : PcOp), w1 < w2 → decodeCls (clsWord s w1) = some o1 →
    decodeCls (clsWord s w2) = some o2 → o1.code.bits.toNat ≤ o2.code.bits.toNat

/-! ### The block decoder -/

/-- spec/30_encoding.md R94: which operation a symbol selects in each state, and the reserved words. -/
def Obligations.BlockDecoderSelection : Prop :=
  (∀ (s : State) (c : SymCode), blockWord s c = s.bd.bdState.bits ++ BitVec.ofBool s.bd.ph ++ s.bd.hCode.bits ++ c.bits) ∧
  (∀ (s : State) (c : SymCode) (w : Width), decode (.blk (blockWord s c) w) =
    .ok (match s.bd.bdState with
      | .seek => if c = .long then .bdFoundLong else .bdSkip c
      | .expect => if c = .medium then .bdStart else .bdErrExpectedM c w
      | .read =>
        if s.bd.ph = false then .bdLatch c w
        else if s.bd.hCode = .short ∧ c = .medium then .bdBit0
        else if s.bd.hCode = .medium ∧ c = .short then .bdBit1
        else if s.bd.hCode = .long ∧ c = .medium then .bdByteEnd
        else if s.bd.hCode = .long ∧ c = .short then .bdDataEnd
        else .bdBadPair c w)) ∧
  ∀ (x : BitVec 5) (w : Width), decode (.blk (0b11#2 ++ x) w) = .error (.blkReserved (0b11#2 ++ x))

/-- spec/43_block_decoder.md R161 and R162: in the search for a leader anything but `Long` is skipped without effect; a `Long` moves
the decoder to expect the start marker. -/
def Obligations.SkipAndFoundLong : Prop :=
  (∀ (x : BitVec 3) (c : SymCode) (w : Width),
    decode (.blk (0b00#2 ++ x ++ c.bits) w) = .ok (if c = .long then .bdFoundLong else .bdSkip c)) ∧
  ∀ (s : State) (c : SymCode), exec (.bdSkip c) s = .next s ∧
    exec .bdFoundLong s = .next { s with bd := { s.bd with bdState := .expect } }

/-- spec/43_block_decoder.md R163: the start marker opens a block with an empty accumulator, at the first symbol of a pair. -/
def Obligations.StartOpensABlock : Prop :=
  (∀ (x : BitVec 3) (w : Width), decode (.blk (0b01#2 ++ x ++ 0b01#2) w) = .ok .bdStart) ∧
  ∀ s : State, exec .bdStart s = .next
    { s with
      bd := { s.bd with bdState := .read, ph := false, acc := 0, nbits := 0 },
      out := s.out ++ [.blockStart],
      trace := s.trace ++ [.blockStart] }

/-- spec/43_block_decoder.md R164 and spec/60_exceptions.md R206: any other symbol in place of the `Medium` halts the machine and is
recorded; the block decoder does not change. -/
def Obligations.MissingStartMarkerHalts : Prop :=
  (∀ (x : BitVec 3) (c : SymCode) (w : Width), c ≠ .medium →
    decode (.blk (0b01#2 ++ x ++ c.bits) w) = .ok (.bdErrExpectedM c w)) ∧
  ∀ (s : State) (c : SymCode) (w : Width), exec (.bdErrExpectedM c w) s = .next
    { s with
      run := .halt,
      err := { errCode := .expectedM, errACode := .short, errAW := 0, errBCode := c, errBW := w, errN := 0, errAcc := 0,
               errPos := s.pos },
      out := s.out ++ [.fatal .expectedM { bCode := c, bW := w } s.pos],
      trace := s.trace ++ [.fatal .expectedM { bCode := c, bW := w } s.pos] }

/-- spec/43_block_decoder.md R165: the first symbol of a pair is held with its width, whatever it is. -/
def Obligations.LatchHoldsTheFirstSymbol : Prop :=
  (∀ (x : BitVec 2) (c : SymCode) (w : Width), decode (.blk (0b100#3 ++ x ++ c.bits) w) = .ok (.bdLatch c w)) ∧
  ∀ (s : State) (c : SymCode) (w : Width),
    exec (.bdLatch c w) s = .next { s with bd := { s.bd with hCode := c, hW := w, ph := true } }

/-- spec/43_block_decoder.md R166, R167 with `append` (R168): the bit goes to position `nbits` while fewer than nine are stored; a
tenth is counted and not stored; more change nothing; the pair is complete. -/
def Obligations.BitsAreAppendedInOrder : Prop :=
  (∀ w : Width, decode (.blk 0b1010001#7 w) = .ok .bdBit0 ∧ decode (.blk 0b1010100#7 w) = .ok .bdBit1) ∧
  ∀ (s : State) (bit : Bool), ∃ t, exec (if bit then .bdBit1 else .bdBit0) s = .next t ∧
    t.bd.ph = false ∧
    (s.bd.nbits.val < 9 → t.bd.nbits.val = s.bd.nbits.val + 1 ∧
      ∀ i, i < 9 → t.bd.acc.getLsbD i = if i = s.bd.nbits.val then bit else s.bd.acc.getLsbD i) ∧
    (s.bd.nbits.val = 9 → t.bd.nbits.val = 10 ∧ t.bd.acc = s.bd.acc) ∧
    (s.bd.nbits.val = 10 → t.bd.nbits.val = 10 ∧ t.bd.acc = s.bd.acc) ∧
    t.bd.bdState = s.bd.bdState ∧ t.bd.hCode = s.bd.hCode ∧ t.bd.hW = s.bd.hW ∧ t.ed = s.ed ∧ t.cal = s.cal ∧
    t.cls = s.cls ∧ t.run = s.run ∧ t.pos = s.pos ∧ t.err = s.err ∧ t.cfg = s.cfg ∧ t.stim = s.stim ∧ t.out = s.out ∧
    t.trace = s.trace

/-- spec/43_block_decoder.md R169 with R170, R171 and spec/60_exceptions.md R207, R208, R210: too few bits, too many bits, an even
number of ones among nine, or a byte whose bit `i` is the `i`-th bit received. -/
def Obligations.ByteMarkerChecksAndEmits : Prop :=
  (∀ w : Width, decode (.blk 0b1011001#7 w) = .ok .bdByteEnd) ∧
  ∀ s : State,
    (s.bd.nbits.val < 9 → exec .bdByteEnd s = .next
      { s with
        run := .halt,
        err := { errCode := .shortByte, errACode := .short, errAW := 0, errBCode := .short, errBW := 0,
                 errN := BitVec.ofNat 4 s.bd.nbits.val, errAcc := 0, errPos := s.pos },
        out := s.out ++ [.fatal .shortByte { n := BitVec.ofNat 4 s.bd.nbits.val } s.pos],
        trace := s.trace ++ [.fatal .shortByte { n := BitVec.ofNat 4 s.bd.nbits.val } s.pos] }) ∧
    (s.bd.nbits.val = 10 → exec .bdByteEnd s = .next
      { s with
        run := .halt,
        err := { errCode := .longByte, errACode := .short, errAW := 0, errBCode := .short, errBW := 0, errN := 10, errAcc := 0,
                 errPos := s.pos },
        out := s.out ++ [.fatal .longByte { n := 10 } s.pos],
        trace := s.trace ++ [.fatal .longByte { n := 10 } s.pos] }) ∧
    (s.bd.nbits.val = 9 → (List.range 9).countP (fun i => s.bd.acc.getLsbD i) % 2 = 0 → exec .bdByteEnd s = .next
      { s with
        run := .halt,
        err := { errCode := .parity, errACode := .short, errAW := 0, errBCode := .short, errBW := 0, errN := 0,
                 errAcc := s.bd.acc, errPos := s.pos },
        out := s.out ++ [.fatal .parity { acc := s.bd.acc } s.pos],
        trace := s.trace ++ [.fatal .parity { acc := s.bd.acc } s.pos] }) ∧
    (s.bd.nbits.val = 9 → (List.range 9).countP (fun i => s.bd.acc.getLsbD i) % 2 = 1 →
      ∃ v : Byte, (∀ i, i < 8 → v.getLsbD i = s.bd.acc.getLsbD i) ∧ exec .bdByteEnd s = .next
        { s with
          bd := { s.bd with acc := 0, nbits := 0, ph := false },
          out := s.out ++ [.byte v],
          trace := s.trace ++ [.byte v] })

/-- spec/43_block_decoder.md R172: the end-of-data marker drops pending bits, closes the block and looks for the next leader, for any
number of bits. -/
def Obligations.DataEndClosesTheBlock : Prop :=
  (∀ w : Width, decode (.blk 0b1011000#7 w) = .ok .bdDataEnd) ∧
  ∀ s : State, exec .bdDataEnd s = .next
    { s with
      bd := { s.bd with bdState := .seek, ph := false, acc := 0, nbits := 0 },
      out := s.out ++ [.blockEnd],
      trace := s.trace ++ [.blockEnd] }

/-- spec/43_block_decoder.md R173 and spec/60_exceptions.md R209: an illegal pair halts the machine; both symbols are recorded with
their widths; the block decoder does not change. -/
def Obligations.BadPairHalts : Prop :=
  (∀ (a c : SymCode) (w : Width),
    (a, c) ∉ [(SymCode.short, SymCode.medium), (.medium, .short), (.long, .medium), (.long, .short)] →
    decode (.blk (0b101#3 ++ a.bits ++ c.bits) w) = .ok (.bdBadPair c w)) ∧
  ∀ (s : State) (c : SymCode) (w : Width), exec (.bdBadPair c w) s = .next
    { s with
      run := .halt,
      err := { errCode := .badPair, errACode := s.bd.hCode, errAW := s.bd.hW, errBCode := c, errBW := w, errN := 0,
               errAcc := 0, errPos := s.pos },
      out := s.out ++ [.fatal .badPair { aCode := s.bd.hCode, aW := s.bd.hW, bCode := c, bW := w } s.pos],
      trace := s.trace ++ [.fatal .badPair { aCode := s.bd.hCode, aW := s.bd.hW, bCode := c, bW := w } s.pos] }

/-- spec/43_block_decoder.md R179 (an inference the spec marks as its own): the complete table of transitions of the block decoder, with the event of each; a fatal error leaves
`bd_state` and `ph` and sets `run`. -/
def Obligations.SymbolTransitionTable : Prop :=
  ∀ (s : State) (c : SymCode) (w : Width), ∃ t, runBlock c w s = .next t ∧
    (s.bd.bdState = .seek → c ≠ .long → t = s) ∧
    (s.bd.bdState = .seek → c = .long → t.bd.bdState = .expect ∧ t.trace = s.trace) ∧
    (s.bd.bdState = .expect → c = .medium →
      t.bd.bdState = .read ∧ t.bd.ph = false ∧ t.trace = s.trace ++ [.blockStart]) ∧
    (s.bd.bdState = .read → s.bd.ph = false → t.bd.bdState = .read ∧ t.bd.ph = true ∧ t.trace = s.trace) ∧
    (s.bd.bdState = .read → s.bd.ph = true →
      ((s.bd.hCode = .short ∧ c = .medium) ∨ (s.bd.hCode = .medium ∧ c = .short)) →
      t.bd.bdState = .read ∧ t.bd.ph = false ∧ t.trace = s.trace) ∧
    (s.bd.bdState = .read → s.bd.ph = true → s.bd.hCode = .long → c = .medium → s.bd.nbits.val = 9 →
      (List.range 9).countP (fun i => s.bd.acc.getLsbD i) % 2 = 1 →
      t.bd.bdState = .read ∧ t.bd.ph = false ∧ ∃ v, t.trace = s.trace ++ [.byte v]) ∧
    (s.bd.bdState = .read → s.bd.ph = true → s.bd.hCode = .long → c = .short →
      t.bd.bdState = .seek ∧ t.trace = s.trace ++ [.blockEnd]) ∧
    (((s.bd.bdState = .expect ∧ c ≠ .medium) ∨
      (s.bd.bdState = .read ∧ s.bd.ph = true ∧ s.bd.hCode = .long ∧ c = .medium ∧
        ¬ (s.bd.nbits.val = 9 ∧ (List.range 9).countP (fun i => s.bd.acc.getLsbD i) % 2 = 1)) ∨
      (s.bd.bdState = .read ∧ s.bd.ph = true ∧ ¬ (s.bd.hCode = .short ∧ c = .medium) ∧
        ¬ (s.bd.hCode = .medium ∧ c = .short) ∧ ¬ (s.bd.hCode = .long ∧ (c = .medium ∨ c = .short)))) →
      t.run = .halt ∧ t.bd = s.bd ∧ ∃ code info, t.trace = s.trace ++ [.fatal code info s.pos])

/-- spec/95_test_vectors.md SRC-4 (D0 section 8) for all bytes and all states in the search for a leader: `START BYTE(v)` emits the
block start and exactly the byte `v`, and leaves the decoder ready for the next byte. -/
def Obligations.ByteRoundTrip : Prop :=
  ∀ (s : State) (v : Byte), s.run = .run → s.bd.bdState = .seek →
    ∃ t, runSymbols (startMarker ++ byteSymbols v) s = .next t ∧ t.trace = s.trace ++ [.blockStart, .byte v] ∧
      t.run = .run ∧ t.bd.bdState = .read ∧ t.bd.ph = false ∧ t.bd.acc = 0 ∧ t.bd.nbits = 0 ∧ t.err = s.err

/-- spec/95_test_vectors.md SRC-5 (D0 section 8) for all bytes: with the parity bit flipped the machine halts with a parity error, no
byte is emitted, and the eight data bits received are recorded. -/
def Obligations.FlippedParityIsRejected : Prop :=
  ∀ (s : State) (v : Byte), s.run = .run → s.bd.bdState = .seek →
    ∃ (t : State) (info : ErrInfo), runSymbols (startMarker ++ byteSymbolsBadParity v) s = .next t ∧
      t.trace = s.trace ++ [.blockStart, .fatal .parity info s.pos] ∧ t.run = .halt ∧ t.err.errCode = .parity ∧
      t.err.errAcc.extractLsb' 0 8 = v ∧ t.err.errPos = s.pos

/-- spec/30_encoding.md R84: the block decoder's decisions depend on the code only; two widths give the same result up to `h_w`, the
widths in the error registers and those in the events. -/
def Obligations.SymbolWidthDecidesNothing : Prop :=
  ∀ (s s' t : State) (c : SymCode) (w w' : Width), eraseWidths s = eraseWidths s' → runBlock c w s = .next t →
    ∃ t', runBlock c w' s' = .next t' ∧ eraseWidths t = eraseWidths t'

/-- spec/10_state.md R32 and spec/93_implementation_defined.md U16: the held symbol is not read while `ph = 0`. -/
def Obligations.HeldSymbolIsUnreadBetweenPairs : Prop :=
  ∀ (s s' t : State) (c : SymCode) (w : Width), s.bd.ph = false → eraseHeld s = eraseHeld s' → runBlock c w s = .next t →
    ∃ t', runBlock c w s' = .next t' ∧ eraseHeld t = eraseHeld t'

/-! ### Fatal errors -/

/-- spec/60_exceptions.md R215: a step that halts the machine latches the cause and its details with the position the sample started
from; the block decoder, the calibrator and the classifier are as they were, the previous sample and the position move on, the
counter is kept on overflow and is 0 otherwise, and `FATAL` is the last event. -/
def Obligations.EntryToHaltLatchesTheError : Prop :=
  ∀ s t : State, s.run = .run → step s = .next t → t.run = .halt →
    ∃ (code : ErrCode) (info : ErrInfo) (evs : List Event), code ≠ .none ∧
      t.err = { errCode := code, errACode := info.aCode, errAW := info.aW, errBCode := info.bCode, errBW := info.bW,
                errN := info.n, errAcc := info.acc, errPos := s.pos } ∧
      t.out = evs ++ [.fatal code info s.pos] ∧ t.trace = s.trace ++ t.out ∧ (∀ e ∈ evs, e.isBlockEvent = false) ∧
      t.bd = s.bd ∧ t.cal = s.cal ∧ t.cls = s.cls ∧
      t.ed = { havePrev := s.ed.havePrev, prev := portSample s.cfg (nextCycle s).sample,
               cnt := if code = .cntOvf then s.ed.cnt else 0 } ∧
      t.pos = (s.pos + 1) % 2 ^ s.cfg.posW

/-- spec/60_exceptions.md R212 (an inference the spec marks as its own): no operation but the four that raise an error, and the two samples that may run one, halts the machine,
and none of them but a reset writes an error register. -/
def Obligations.NoOtherOperationFaults : Prop :=
  ∀ (i : Instr) (s t : State), exec i s = .next t →
    (∀ v, i ≠ .sample v ∧ i ≠ .sampleEos v ∧ i ≠ .edOvf v) → (∀ c w, i ≠ .bdErrExpectedM c w ∧ i ≠ .bdBadPair c w) →
    i ≠ .bdByteEnd →
    (t.run = .halt → s.run = .halt ∧ i ≠ .reset) ∧ (i ≠ .reset → t.err = s.err)

/-- spec/60_exceptions.md R217: from `HALT` every step without `rst` changes no register and emits nothing, and a step with `rst` starts
a new session without the error. -/
def Obligations.HaltLastsUntilReset : Prop :=
  ∀ s : State, s.cfg.Valid → s.run = .halt → ∃ t, step s = .next t ∧
    ((nextCycle s).rst = false → SameMachine s t ∧ t.out = []) ∧
    ((nextCycle s).rst = true → SameMachine (State.resetWith s.cfg) t)

/-! ### Whole-machine rules -/

/-- spec/10_state.md R47 (an inference the spec marks as its own) with spec/00_scope.md R3: an operation writes its own unit's registers only, with the two exceptions: the
calibrator's load of the thresholds, and the trap entry, invoked by the edge detector with `E_CNT_OVF` and by the block decoder with
any other code. -/
def Obligations.OperationsWriteTheirOwnUnitOnly : Prop :=
  ∀ (i : Instr) (s t : State), exec i s = .next t →
    ((encode i).tag = .edge → t.cal = s.cal ∧ t.cls = s.cls ∧ t.bd = s.bd ∧ t.pos = s.pos ∧
      ((∀ v, i ≠ .edOvf v) → t.run = s.run ∧ t.err = s.err)) ∧
    ((encode i).tag = .cal → t.ed = s.ed ∧ t.bd = s.bd ∧ t.pos = s.pos ∧ t.run = s.run ∧ t.err = s.err ∧
      ((∀ w, i ≠ .calFinish w) → t.cls = s.cls)) ∧
    ((encode i).tag = .cls → t.ed = s.ed ∧ t.cal = s.cal ∧ t.cls = s.cls ∧ t.bd = s.bd ∧ t.pos = s.pos ∧ t.run = s.run ∧
      t.err = s.err) ∧
    ((encode i).tag = .blk → t.ed = s.ed ∧ t.cal = s.cal ∧ t.cls = s.cls ∧ t.pos = s.pos ∧
      (t.run ≠ s.run ∨ t.err ≠ s.err → t.run = .halt ∧ t.err.errCode ≠ .none ∧ t.err.errCode ≠ .cntOvf ∧ t.bd = s.bd))

/-- spec/10_state.md R20, R41: no operation writes the configuration. That no operation touches the inputs still to come is the model's
reading of the ports (log entry 1). -/
def Obligations.ConfigurationIsNeverWritten : Prop :=
  ∀ (i : Instr) (s t : State), exec i s = .next t → t.cfg = s.cfg ∧ t.stim = s.stim

/-- spec/20_memory.md R71, R72 (inferences the spec marks as its own) with spec/30_encoding.md R89: the events of one clock edge are at most one pulse, then at most one of
`CAL_DONE` and `SYM`, only after a pulse, then at most one of `BLOCK_START`, `BYTE`, `BLOCK_END` and `FATAL`, then at most one `DONE`,
never with a `FATAL`; unless the edge is a reset, the trace grows by exactly these. -/
def Obligations.EventsOfOneClockEdge : Prop :=
  ∀ s t : State, step s = .next t → ∃ p c b d : List Event, t.out = p ++ c ++ b ++ d ∧
    p.length ≤ 1 ∧ (∀ e ∈ p, e.pulseWidth ≠ none) ∧
    c.length ≤ p.length ∧ (∀ e ∈ c, e.isCalDone = true ∨ e.symbol ≠ none) ∧
    b.length ≤ 1 ∧ (∀ e ∈ b, e.isBlockEvent = true) ∧
    d.length ≤ 1 ∧ (∀ e ∈ d, e.isDone = true ∧ (nextCycle s).eos = true) ∧
    (d ≠ [] → ∀ e ∈ b, e.isFatal = false) ∧
    ((nextCycle s).rst = false → t.trace = s.trace ++ t.out)

/-- spec/10_state.md R24, R22: an accepted sample moves the position on by one and becomes the previous sample; no other operation
but a reset writes either at the top level. -/
def Obligations.OnlySamplesMoveThePosition : Prop :=
  ∀ s t : State, s.cfg.Valid → step s = .next t → (nextCycle s).rst = false →
    ((nextCycle s).sampleValid = true ∧ s.run = .run →
      t.pos = (s.pos + 1) % 2 ^ s.cfg.posW ∧ t.ed.prev = portSample s.cfg (nextCycle s).sample ∧ t.ed.havePrev = true) ∧
    (¬ ((nextCycle s).sampleValid = true ∧ s.run = .run) → t.pos = s.pos ∧ t.ed = s.ed)

/-- spec/44_top_level.md R194, last sentence: dropping all cycles without an input event from a stimulus changes neither a register nor
the trace. -/
def Obligations.IdleCyclesAreInvisible : Prop :=
  ∀ (s : State) (cs : List Cycle), s.cfg.Valid →
    ∃ t u : State, Sys2Proof.core.run cs.length { s with stim := cs } = .next t ∧
      Sys2Proof.core.run (cs.filter Cycle.active).length { s with stim := cs.filter Cycle.active } = .next u ∧
      SameMachine t u

/-- spec/60_exceptions.md R224: no step but a reset takes back a closed block, and a step adds at most one, which was open; the step
that halts adds none, so the bytes of the block in progress at the error are no block. -/
def Obligations.ClosedBlocksStand : Prop :=
  ∀ s t : State, step s = .next t → (nextCycle s).rst = false →
    (blocks t.trace = blocks s.trace ∨ ∃ l, residue s.trace = some l ∧ blocks t.trace = blocks s.trace ++ [l]) ∧
    (s.run = .run → t.run = .halt → blocks t.trace = blocks s.trace)

/-! ### Invariants -/

/-- spec/10_state.md R45 (an inference the spec marks as its own): every step keeps the invariants of the state. -/
def Obligations.StepKeepsTheStateInvariant : Prop :=
  ∀ s t : State, Inv s → step s = .next t → Inv t

/-- spec/20_memory.md R71 and spec/43_block_decoder.md R178 (inferences the spec marks as its own): every step keeps the order of the trace and its agreement with the
registers: blocks open and close in turn, bytes lie in blocks, a `SYM` follows its `PULSE`, and nothing follows `FATAL` or `DONE`. -/
def Obligations.StepKeepsTheTraceInvariant : Prop :=
  ∀ s t : State, Inv s → TraceInv s → step s = .next t → TraceInv t

/-- spec/10_state.md R45 (an inference the spec marks as its own): in every reachable state, whatever inputs came when, the invariants hold, and those of the trace and of the
samples with them. -/
def Obligations.EveryReachableStateMeetsTheInvariants : Prop :=
  ∀ s : State, Reachable s → Inv s ∧ TraceInv s ∧ PulseInv s ∧ SampleAccount s

/-- The state after a reset under any valid configuration meets the four invariants (spec/10_state.md R46). -/
def Obligations.ResetMeetsTheInvariants : Prop :=
  ∀ g : Config, g.Valid → Inv (State.resetWith g) ∧ TraceInv (State.resetWith g) ∧ PulseInv (State.resetWith g) ∧
    SampleAccount (State.resetWith g)

/-! ### Encodings -/

/-- spec/30_encoding.md section 3: the decoder reads every well-formed operation back from its encoding, with every operand at every
value the configuration admits. -/
def Obligations.DecodeInvertsEncode : Prop :=
  ∀ (g : Config) (i : Instr), i.wf g = true → decode (encode i) = .ok i

/-- spec/30_encoding.md R90 to R94: a selection word decodes unless it is a reserved word of the top level or of the block decoder; what
it decodes to re-encodes to a word of the same unit that decodes to the same operation. The classifier words `110`, `101`, `100` and
`010`, which R96 and spec/93_implementation_defined.md U2 list as reserved too, decode here by the `x` positions of R93: that is the
model's reading (log entry 16). -/
def Obligations.OnlyReservedWordsAreRejected : Prop :=
  ∀ sw : SelWord,
    ((∃ r, decode sw = .error r) ↔
      (∃ (a b : Bool) (v : Sample), (a = true ∨ b = true) ∧
        sw = .top (0b0#1 ++ BitVec.ofBool a ++ BitVec.ofBool b ++ 0b11#2) v) ∨
      ∃ (x : BitVec 5) (w : Width), sw = .blk (0b11#2 ++ x) w) ∧
    ∀ i, decode sw = .ok i → decode (encode i) = .ok i ∧ (encode i).tag = sw.tag

/-- spec/30_encoding.md R90 to R94: a few words written out bit by bit. -/
def Obligations.WrittenOutWordsDecode : Prop :=
  decode (.top 0b01000#5 (-3000)) = .ok (.sample (-3000)) ∧
  decode (.edge 0b11110#5 (-3000)) = .ok (.edEdge (-3000)) ∧
  decode (.cal 0b1#1 16) = .ok (.calFinish 16) ∧
  decode (.cls 0b011#3 22) = .ok (.pcMedium 22) ∧
  decode (.blk 0b1011001#7 22) = .ok .bdByteEnd ∧
  decode (.blk 0b1011111#7 41) = .ok (.bdBadPair .unknown 41)
end

