-- ==== Sys2Proof/Laws/State.lean ====
section
/-! SUPPORT. What each named update of the state does to each field, one lemma per field per update, so that no later proof unfolds
a record update. -/

namespace Sys2Proof.Machine

@[simp] theorem emit_cfg (e : Event) (s : State) : (emit e s).cfg = s.cfg := rfl
@[simp] theorem emit_ed (e : Event) (s : State) : (emit e s).ed = s.ed := rfl
@[simp] theorem emit_cal (e : Event) (s : State) : (emit e s).cal = s.cal := rfl
@[simp] theorem emit_cls (e : Event) (s : State) : (emit e s).cls = s.cls := rfl
@[simp] theorem emit_bd (e : Event) (s : State) : (emit e s).bd = s.bd := rfl
@[simp] theorem emit_run (e : Event) (s : State) : (emit e s).run = s.run := rfl
@[simp] theorem emit_pos (e : Event) (s : State) : (emit e s).pos = s.pos := rfl
@[simp] theorem emit_err (e : Event) (s : State) : (emit e s).err = s.err := rfl
@[simp] theorem emit_stim (e : Event) (s : State) : (emit e s).stim = s.stim := rfl
@[simp] theorem emit_out (e : Event) (s : State) : (emit e s).out = s.out ++ [e] := rfl
@[simp] theorem emit_trace (e : Event) (s : State) : (emit e s).trace = s.trace ++ [e] := rfl

@[simp] theorem memWrite_cfg (i : Nat) (w : Width) (s : State) : (memWrite i w s).cfg = s.cfg := rfl
@[simp] theorem memWrite_ed (i : Nat) (w : Width) (s : State) : (memWrite i w s).ed = s.ed := rfl
@[simp] theorem memWrite_cal (i : Nat) (w : Width) (s : State) :
    (memWrite i w s).cal =
      { s.cal with calBuf := s.cal.calBuf.set i w } := rfl
@[simp] theorem memWrite_cls (i : Nat) (w : Width) (s : State) : (memWrite i w s).cls = s.cls := rfl
@[simp] theorem memWrite_bd (i : Nat) (w : Width) (s : State) : (memWrite i w s).bd = s.bd := rfl
@[simp] theorem memWrite_run (i : Nat) (w : Width) (s : State) : (memWrite i w s).run = s.run := rfl
@[simp] theorem memWrite_pos (i : Nat) (w : Width) (s : State) : (memWrite i w s).pos = s.pos := rfl
@[simp] theorem memWrite_err (i : Nat) (w : Width) (s : State) : (memWrite i w s).err = s.err := rfl
@[simp] theorem memWrite_stim (i : Nat) (w : Width) (s : State) : (memWrite i w s).stim = s.stim := rfl
@[simp] theorem memWrite_out (i : Nat) (w : Width) (s : State) : (memWrite i w s).out = s.out := rfl
@[simp] theorem memWrite_trace (i : Nat) (w : Width) (s : State) : (memWrite i w s).trace = s.trace := rfl

@[simp] theorem setCalN_cfg (n : Nat) (s : State) : (setCalN n s).cfg = s.cfg := rfl
@[simp] theorem setCalN_ed (n : Nat) (s : State) : (setCalN n s).ed = s.ed := rfl
@[simp] theorem setCalN_cal (n : Nat) (s : State) : (setCalN n s).cal = { s.cal with calN := n } := rfl
@[simp] theorem setCalN_cls (n : Nat) (s : State) : (setCalN n s).cls = s.cls := rfl
@[simp] theorem setCalN_bd (n : Nat) (s : State) : (setCalN n s).bd = s.bd := rfl
@[simp] theorem setCalN_run (n : Nat) (s : State) : (setCalN n s).run = s.run := rfl
@[simp] theorem setCalN_pos (n : Nat) (s : State) : (setCalN n s).pos = s.pos := rfl
@[simp] theorem setCalN_err (n : Nat) (s : State) : (setCalN n s).err = s.err := rfl
@[simp] theorem setCalN_stim (n : Nat) (s : State) : (setCalN n s).stim = s.stim := rfl
@[simp] theorem setCalN_out (n : Nat) (s : State) : (setCalN n s).out = s.out := rfl
@[simp] theorem setCalN_trace (n : Nat) (s : State) : (setCalN n s).trace = s.trace := rfl

@[simp] theorem loadThresholds_cfg (r : Width) (s : State) : (loadThresholds r s).cfg = s.cfg := rfl
@[simp] theorem loadThresholds_ed (r : Width) (s : State) : (loadThresholds r s).ed = s.ed := rfl
@[simp] theorem loadThresholds_cal (r : Width) (s : State) : (loadThresholds r s).cal = s.cal := rfl
@[simp] theorem loadThresholds_cls (r : Width) (s : State) :
    (loadThresholds r s).cls =
      { s0 := r, thS := s.cfg.kS * r, thM := s.cfg.kM * r, thL := s.cfg.kL * r, thValid := true } := rfl
@[simp] theorem loadThresholds_bd (r : Width) (s : State) : (loadThresholds r s).bd = s.bd := rfl
@[simp] theorem loadThresholds_run (r : Width) (s : State) : (loadThresholds r s).run = s.run := rfl
@[simp] theorem loadThresholds_pos (r : Width) (s : State) : (loadThresholds r s).pos = s.pos := rfl
@[simp] theorem loadThresholds_err (r : Width) (s : State) : (loadThresholds r s).err = s.err := rfl
@[simp] theorem loadThresholds_stim (r : Width) (s : State) : (loadThresholds r s).stim = s.stim := rfl
@[simp] theorem loadThresholds_out (r : Width) (s : State) : (loadThresholds r s).out = s.out := rfl
@[simp] theorem loadThresholds_trace (r : Width) (s : State) : (loadThresholds r s).trace = s.trace := rfl

@[simp] theorem raiseFatal_cfg (code : ErrCode) (info : ErrInfo) (s : State) : (raiseFatal code info s).cfg = s.cfg := rfl
@[simp] theorem raiseFatal_ed (code : ErrCode) (info : ErrInfo) (s : State) : (raiseFatal code info s).ed = s.ed := rfl
@[simp] theorem raiseFatal_cal (code : ErrCode) (info : ErrInfo) (s : State) : (raiseFatal code info s).cal = s.cal := rfl
@[simp] theorem raiseFatal_cls (code : ErrCode) (info : ErrInfo) (s : State) : (raiseFatal code info s).cls = s.cls := rfl
@[simp] theorem raiseFatal_bd (code : ErrCode) (info : ErrInfo) (s : State) : (raiseFatal code info s).bd = s.bd := rfl
@[simp] theorem raiseFatal_run (code : ErrCode) (info : ErrInfo) (s : State) : (raiseFatal code info s).run = .halt := rfl
@[simp] theorem raiseFatal_pos (code : ErrCode) (info : ErrInfo) (s : State) : (raiseFatal code info s).pos = s.pos := rfl
@[simp] theorem raiseFatal_err (code : ErrCode) (info : ErrInfo) (s : State) :
    (raiseFatal code info s).err =
      { errCode := code, errACode := info.aCode, errAW := info.aW, errBCode := info.bCode, errBW := info.bW, errN := info.n,
        errAcc := info.acc, errPos := s.pos } := rfl
@[simp] theorem raiseFatal_stim (code : ErrCode) (info : ErrInfo) (s : State) : (raiseFatal code info s).stim = s.stim := rfl
@[simp] theorem raiseFatal_out (code : ErrCode) (info : ErrInfo) (s : State) :
    (raiseFatal code info s).out =
      s.out ++ [.fatal code info s.pos] := rfl
@[simp] theorem raiseFatal_trace (code : ErrCode) (info : ErrInfo) (s : State) :
    (raiseFatal code info s).trace =
      s.trace ++ [.fatal code info s.pos] := rfl

@[simp] theorem bumpPos_cfg (s : State) : (bumpPos s).cfg = s.cfg := rfl
@[simp] theorem bumpPos_ed (s : State) : (bumpPos s).ed = s.ed := rfl
@[simp] theorem bumpPos_cal (s : State) : (bumpPos s).cal = s.cal := rfl
@[simp] theorem bumpPos_cls (s : State) : (bumpPos s).cls = s.cls := rfl
@[simp] theorem bumpPos_bd (s : State) : (bumpPos s).bd = s.bd := rfl
@[simp] theorem bumpPos_run (s : State) : (bumpPos s).run = s.run := rfl
@[simp] theorem bumpPos_pos (s : State) : (bumpPos s).pos = (s.pos + 1) % 2 ^ s.cfg.posW := rfl
@[simp] theorem bumpPos_err (s : State) : (bumpPos s).err = s.err := rfl
@[simp] theorem bumpPos_stim (s : State) : (bumpPos s).stim = s.stim := rfl
@[simp] theorem bumpPos_out (s : State) : (bumpPos s).out = s.out := rfl
@[simp] theorem bumpPos_trace (s : State) : (bumpPos s).trace = s.trace := rfl

@[simp] theorem appendBit_cfg (b : Bool) (s : State) : (appendBit b s).cfg = s.cfg := rfl
@[simp] theorem appendBit_ed (b : Bool) (s : State) : (appendBit b s).ed = s.ed := rfl
@[simp] theorem appendBit_cal (b : Bool) (s : State) : (appendBit b s).cal = s.cal := rfl
@[simp] theorem appendBit_cls (b : Bool) (s : State) : (appendBit b s).cls = s.cls := rfl
@[simp] theorem appendBit_bd (b : Bool) (s : State) :
    (appendBit b s).bd =
      { s.bd with
        acc := if s.bd.nbits.val < 9 then setAccBit s.bd.acc s.bd.nbits.val b else s.bd.acc,
        nbits := bumpBits s.bd.nbits } := rfl
@[simp] theorem appendBit_run (b : Bool) (s : State) : (appendBit b s).run = s.run := rfl
@[simp] theorem appendBit_pos (b : Bool) (s : State) : (appendBit b s).pos = s.pos := rfl
@[simp] theorem appendBit_err (b : Bool) (s : State) : (appendBit b s).err = s.err := rfl
@[simp] theorem appendBit_stim (b : Bool) (s : State) : (appendBit b s).stim = s.stim := rfl
@[simp] theorem appendBit_out (b : Bool) (s : State) : (appendBit b s).out = s.out := rfl
@[simp] theorem appendBit_trace (b : Bool) (s : State) : (appendBit b s).trace = s.trace := rfl

@[simp] theorem clearAcc_cfg (s : State) : (clearAcc s).cfg = s.cfg := rfl
@[simp] theorem clearAcc_ed (s : State) : (clearAcc s).ed = s.ed := rfl
@[simp] theorem clearAcc_cal (s : State) : (clearAcc s).cal = s.cal := rfl
@[simp] theorem clearAcc_cls (s : State) : (clearAcc s).cls = s.cls := rfl
@[simp] theorem clearAcc_bd (s : State) : (clearAcc s).bd = { s.bd with acc := 0, nbits := 0 } := rfl
@[simp] theorem clearAcc_run (s : State) : (clearAcc s).run = s.run := rfl
@[simp] theorem clearAcc_pos (s : State) : (clearAcc s).pos = s.pos := rfl
@[simp] theorem clearAcc_err (s : State) : (clearAcc s).err = s.err := rfl
@[simp] theorem clearAcc_stim (s : State) : (clearAcc s).stim = s.stim := rfl
@[simp] theorem clearAcc_out (s : State) : (clearAcc s).out = s.out := rfl
@[simp] theorem clearAcc_trace (s : State) : (clearAcc s).trace = s.trace := rfl

@[simp] theorem setPh_cfg (b : Bool) (s : State) : (setPh b s).cfg = s.cfg := rfl
@[simp] theorem setPh_ed (b : Bool) (s : State) : (setPh b s).ed = s.ed := rfl
@[simp] theorem setPh_cal (b : Bool) (s : State) : (setPh b s).cal = s.cal := rfl
@[simp] theorem setPh_cls (b : Bool) (s : State) : (setPh b s).cls = s.cls := rfl
@[simp] theorem setPh_bd (b : Bool) (s : State) : (setPh b s).bd = { s.bd with ph := b } := rfl
@[simp] theorem setPh_run (b : Bool) (s : State) : (setPh b s).run = s.run := rfl
@[simp] theorem setPh_pos (b : Bool) (s : State) : (setPh b s).pos = s.pos := rfl
@[simp] theorem setPh_err (b : Bool) (s : State) : (setPh b s).err = s.err := rfl
@[simp] theorem setPh_stim (b : Bool) (s : State) : (setPh b s).stim = s.stim := rfl
@[simp] theorem setPh_out (b : Bool) (s : State) : (setPh b s).out = s.out := rfl
@[simp] theorem setPh_trace (b : Bool) (s : State) : (setPh b s).trace = s.trace := rfl

@[simp] theorem setBdState_cfg (b : BdState) (s : State) : (setBdState b s).cfg = s.cfg := rfl
@[simp] theorem setBdState_ed (b : BdState) (s : State) : (setBdState b s).ed = s.ed := rfl
@[simp] theorem setBdState_cal (b : BdState) (s : State) : (setBdState b s).cal = s.cal := rfl
@[simp] theorem setBdState_cls (b : BdState) (s : State) : (setBdState b s).cls = s.cls := rfl
@[simp] theorem setBdState_bd (b : BdState) (s : State) : (setBdState b s).bd = { s.bd with bdState := b } := rfl
@[simp] theorem setBdState_run (b : BdState) (s : State) : (setBdState b s).run = s.run := rfl
@[simp] theorem setBdState_pos (b : BdState) (s : State) : (setBdState b s).pos = s.pos := rfl
@[simp] theorem setBdState_err (b : BdState) (s : State) : (setBdState b s).err = s.err := rfl
@[simp] theorem setBdState_stim (b : BdState) (s : State) : (setBdState b s).stim = s.stim := rfl
@[simp] theorem setBdState_out (b : BdState) (s : State) : (setBdState b s).out = s.out := rfl
@[simp] theorem setBdState_trace (b : BdState) (s : State) : (setBdState b s).trace = s.trace := rfl

@[simp] theorem setPrev_cfg (v : Sample) (s : State) : (setPrev v s).cfg = s.cfg := rfl
@[simp] theorem setPrev_ed (v : Sample) (s : State) : (setPrev v s).ed = { s.ed with prev := v } := rfl
@[simp] theorem setPrev_cal (v : Sample) (s : State) : (setPrev v s).cal = s.cal := rfl
@[simp] theorem setPrev_cls (v : Sample) (s : State) : (setPrev v s).cls = s.cls := rfl
@[simp] theorem setPrev_bd (v : Sample) (s : State) : (setPrev v s).bd = s.bd := rfl
@[simp] theorem setPrev_run (v : Sample) (s : State) : (setPrev v s).run = s.run := rfl
@[simp] theorem setPrev_pos (v : Sample) (s : State) : (setPrev v s).pos = s.pos := rfl
@[simp] theorem setPrev_err (v : Sample) (s : State) : (setPrev v s).err = s.err := rfl
@[simp] theorem setPrev_stim (v : Sample) (s : State) : (setPrev v s).stim = s.stim := rfl
@[simp] theorem setPrev_out (v : Sample) (s : State) : (setPrev v s).out = s.out := rfl
@[simp] theorem setPrev_trace (v : Sample) (s : State) : (setPrev v s).trace = s.trace := rfl

@[simp] theorem setCnt_cfg (n : Nat) (s : State) : (setCnt n s).cfg = s.cfg := rfl
@[simp] theorem setCnt_ed (n : Nat) (s : State) : (setCnt n s).ed = { s.ed with cnt := n } := rfl
@[simp] theorem setCnt_cal (n : Nat) (s : State) : (setCnt n s).cal = s.cal := rfl
@[simp] theorem setCnt_cls (n : Nat) (s : State) : (setCnt n s).cls = s.cls := rfl
@[simp] theorem setCnt_bd (n : Nat) (s : State) : (setCnt n s).bd = s.bd := rfl
@[simp] theorem setCnt_run (n : Nat) (s : State) : (setCnt n s).run = s.run := rfl
@[simp] theorem setCnt_pos (n : Nat) (s : State) : (setCnt n s).pos = s.pos := rfl
@[simp] theorem setCnt_err (n : Nat) (s : State) : (setCnt n s).err = s.err := rfl
@[simp] theorem setCnt_stim (n : Nat) (s : State) : (setCnt n s).stim = s.stim := rfl
@[simp] theorem setCnt_out (n : Nat) (s : State) : (setCnt n s).out = s.out := rfl
@[simp] theorem setCnt_trace (n : Nat) (s : State) : (setCnt n s).trace = s.trace := rfl

@[simp] theorem advance_cfg (s : State) : (advance s).cfg = s.cfg := rfl
@[simp] theorem advance_ed (s : State) : (advance s).ed = s.ed := rfl
@[simp] theorem advance_cal (s : State) : (advance s).cal = s.cal := rfl
@[simp] theorem advance_cls (s : State) : (advance s).cls = s.cls := rfl
@[simp] theorem advance_bd (s : State) : (advance s).bd = s.bd := rfl
@[simp] theorem advance_run (s : State) : (advance s).run = s.run := rfl
@[simp] theorem advance_pos (s : State) : (advance s).pos = s.pos := rfl
@[simp] theorem advance_err (s : State) : (advance s).err = s.err := rfl
@[simp] theorem advance_stim (s : State) : (advance s).stim = s.stim.tail := rfl
@[simp] theorem advance_out (s : State) : (advance s).out = [] := rfl
@[simp] theorem advance_trace (s : State) : (advance s).trace = s.trace := rfl

@[simp] theorem resetRegisters_cfg (s : State) : (resetRegisters s).cfg = s.cfg := rfl
@[simp] theorem resetRegisters_ed (s : State) : (resetRegisters s).ed = EdgeRegs.reset := rfl
@[simp] theorem resetRegisters_cal (s : State) : (resetRegisters s).cal = CalRegs.reset s.cfg := rfl
@[simp] theorem resetRegisters_cls (s : State) : (resetRegisters s).cls = ClsRegs.reset s.cfg := rfl
@[simp] theorem resetRegisters_bd (s : State) : (resetRegisters s).bd = BlkRegs.reset := rfl
@[simp] theorem resetRegisters_run (s : State) : (resetRegisters s).run = .run := rfl
@[simp] theorem resetRegisters_pos (s : State) : (resetRegisters s).pos = 0 := rfl
@[simp] theorem resetRegisters_err (s : State) : (resetRegisters s).err = ErrRegs.reset := rfl
@[simp] theorem resetRegisters_stim (s : State) : (resetRegisters s).stim = s.stim := rfl
@[simp] theorem resetRegisters_out (s : State) : (resetRegisters s).out = [] := rfl
@[simp] theorem resetRegisters_trace (s : State) : (resetRegisters s).trace = [] := rfl

end Sys2Proof.Machine
end

