-- ==== Sys2Proof/Laws/Memory.lean ====
section
/-! SUPPORT. The calibration buffer: reads after writes, its length, and its bound (spec/20_memory.md R61); the accumulator's bits
(spec/43_block_decoder.md R168); the sort (spec/41_leader_calibrator.md R133). -/

namespace Sys2Proof.Machine

/-- A read after a write to the same element gives the value written. -/
theorem memRead_memWrite_same {i : Nat} {w : Width} {s : State} (h : i < s.cal.calBuf.length) :
    memRead i (memWrite i w s) = w := by
  simp [memRead, h]

/-- A write leaves every other element alone. -/
theorem memRead_memWrite_other {i j : Nat} {w : Width} {s : State} (h : i ≠ j) :
    memRead i (memWrite j w s) = memRead i s := by
  simp [memRead, h.symm]

/-- A write keeps the buffer's length. -/
@[simp] theorem memWrite_length (i : Nat) (w : Width) (s : State) :
    (memWrite i w s).cal.calBuf.length = s.cal.calBuf.length := by
  simp

/-- `cal_n` is no part of the buffer. -/
@[simp] theorem memRead_setCalN (i n : Nat) (s : State) : memRead i (setCalN n s) = memRead i s := rfl

/-- A bound on the elements is kept by a write that meets it. -/
theorem memWrite_bound {b i : Nat} {w : Width} {s : State} (h : ∀ x ∈ s.cal.calBuf, x < b) (hw : w < b) :
    ∀ x ∈ (memWrite i w s).cal.calBuf, x < b := by
  intro x hx
  rcases List.mem_or_eq_of_mem_set hx with hx | rfl
  · exact h x hx
  · exact hw

/-- Sorting keeps the values. -/
theorem sortAsc_perm (l : List Width) : (sortAsc l).Perm l := List.perm_insertionSort _ _

/-- Sorting puts the values in non-decreasing order. -/
theorem sortAsc_ordered (l : List Width) : (sortAsc l).Pairwise (· ≤ ·) := List.pairwise_insertionSort _ _

/-- The order of arrival does not matter to the sorted list. -/
theorem sortAsc_eq_of_perm {l l' : List Width} (h : l.Perm l') : sortAsc l = sortAsc l' :=
  ((sortAsc_perm l).trans (h.trans (sortAsc_perm l').symm)).eq_of_pairwise
    (fun _ _ _ _ hab hba => Nat.le_antisymm hab hba) (sortAsc_ordered l) (sortAsc_ordered l')

/-- Writing a bit writes that bit and no other. -/
theorem getLsbD_setAccBit : ∀ (i j : Fin 9) (bit : Bool) (a : Acc),
    (setAccBit a i bit).getLsbD j = if j = i then bit else a.getLsbD j := by
  intro i j bit a
  fin_cases i <;> fin_cases j <;> cases bit <;> simp [setAccBit]

end Sys2Proof.Machine
end

