-- ==== Sys2Proof/Laws/Selection.lean ====
section
/-! SUPPORT. What each selection word selects, read from the conditions it is formed of (spec/30_encoding.md R90 to R94): callers cite
these instead of unfolding the operation maps. -/

namespace Sys2Proof.Machine

/-- R90, from its fields. -/
theorem decodeTop_bits (rst sv eos : Bool) (r : RunState) :
    decodeTop (BitVec.ofBool rst ++ BitVec.ofBool sv ++ BitVec.ofBool eos ++ r.bits) = some
      (if rst then .reset
        else if !sv && !eos then .idle
        else if r ≠ .run then .ignore
        else if !sv then .eos
        else if eos then .sampleEos
        else .sample) := by
  revert rst sv eos
  cases r <;> decide

/-- R90, from the inputs and `run`. -/
theorem decodeTop_topWord (c : Cycle) (r : RunState) :
    decodeTop (topWord c r) = some
      (if c.rst then .reset
        else if !c.sampleValid && !c.eos then .idle
        else if r ≠ .run then .ignore
        else if !c.sampleValid then .eos
        else if c.eos then .sampleEos
        else .sample) :=
  decodeTop_bits _ _ _ _

/-- R91, from its five bits. -/
theorem decodeEdge_bits : ∀ h d a b m : Bool,
    decodeEdge (BitVec.ofBool h ++ BitVec.ofBool d ++ BitVec.ofBool a ++ BitVec.ofBool b ++ BitVec.ofBool m) = some
      (if h = false then .prime else if m then .ovf else if d && a && b then .edge else .count) := by
  decide

/-- R91, from the registers and the sample. -/
theorem decodeEdge_edgeWord (s : State) (v : Sample) :
    decodeEdge (edgeWord s v) = some
      (if s.ed.havePrev = false then .prime
        else if cntMax s then .ovf
        else if qualifies s.cfg s.ed.prev v then .edge
        else .count) :=
  decodeEdge_bits _ _ _ _ _

/-- R92, from the count of widths collected. -/
theorem decodeCal_calWord (s : State) :
    decodeCal (calWord s) = some (if calLast s then .finish else .collect) := by
  unfold calWord
  cases calLast s <;> rfl

/-- R93, from its three bits. -/
theorem decodeCls_bits : ∀ a b c : Bool,
    decodeCls (BitVec.ofBool a ++ BitVec.ofBool b ++ BitVec.ofBool c) = some
      (if a then .short else if b then .medium else if c then .long else .unknown) := by
  decide

/-- R93, from the three comparisons. -/
theorem decodeCls_clsWord (s : State) (w : Width) :
    decodeCls (clsWord s w) = some
      (if ltS s w then .short else if ltM s w then .medium else if ltL s w then .long else .unknown) :=
  decodeCls_bits _ _ _

/-- The operation a symbol selects in a state of the block decoder (R94). -/
def blockOp (b : BdState) (ph : Bool) (a c : SymCode) : BdOp :=
  match b with
  | .seek => if c = .long then .foundLong else .skip
  | .expect => if c = .medium then .start else .errExpectedM
  | .read =>
    if ph = false then .latch
    else if a = .short ∧ c = .medium then .bit0
    else if a = .medium ∧ c = .short then .bit1
    else if a = .long ∧ c = .medium then .byteEnd
    else if a = .long ∧ c = .short then .dataEnd
    else .badPair

/-- R94, from its fields. -/
theorem decodeBlk_bits (b : BdState) (ph : Bool) (a c : SymCode) :
    decodeBlk (b.bits ++ BitVec.ofBool ph ++ a.bits ++ c.bits) = some (blockOp b ph a c) := by
  cases b <;> cases ph <;> cases a <;> cases c <;> rfl

/-- R94, from the registers and the symbol. -/
theorem decodeBlk_blockWord (s : State) (c : SymCode) :
    decodeBlk (blockWord s c) = some (blockOp s.bd.bdState s.bd.ph s.bd.hCode c) :=
  decodeBlk_bits _ _ _ _

/-- The symbol code in a block decoder word is the one it was formed of. -/
theorem blkWordSym_blockWord (s : State) (c : SymCode) : blkWordSym (blockWord s c) = c := by
  unfold blockWord
  cases s.bd.bdState <;> cases s.bd.ph <;> cases s.bd.hCode <;> cases c <;> rfl

end Sys2Proof.Machine
end

