-- ==== Sys2Proof/Laws/Ops.lean ====
section
/-! SUPPORT. What each shared operation and each level of `SAMPLE` can do, said once: later proofs cite these and do not unfold the
operations. -/

namespace Sys2Proof.Machine

@[simp] theorem andThen_next (s : State) (f : State → Result) : andThen (.next s) f = f s := rfl

/-- A sequence answers a next state only through a next state of its first part. -/
theorem andThen_eq_next {r : Result} {f : State → Result} {t : State} (h : andThen r f = .next t) :
    ∃ s, r = .next s ∧ f s = .next t := by
  cases r with
  | next s => exact ⟨s, rfl, h⟩
  | fault e => cases h
  | refused e => cases h

/-- A block decoder operation with its operand is run by its meaning (R94). -/
theorem runBlock_eq (c : SymCode) (w : Width) (s : State) :
    runBlock c w s = exec ((blockOp s.bd.bdState s.bd.ph s.bd.hCode c).instr c w) s := by
  unfold runBlock
  rw [decodeBlk_blockWord]
  cases blockOp s.bd.bdState s.bd.ph s.bd.hCode c <;> rfl

/-- A width in calibration (R92). -/
theorem runCal_eq (w : Width) (s : State) :
    runCal w s = if calLast s then execCalFinish w s else execCalCollect w s := by
  unfold runCal
  rw [decodeCal_calWord]
  cases calLast s <;> rfl

/-- The symbol code a width is classified as (R93). -/
def classOf (s : State) (w : Width) : SymCode :=
  if ltS s w then .short else if ltM s w then .medium else if ltL s w then .long else .unknown

/-- A width after calibration: its symbol is emitted and goes to the block decoder (R93, R191). -/
theorem runCls_eq (w : Width) (s : State) :
    runCls w s = runBlock (classOf s w) w (emit (.sym (classOf s w) w) s) := by
  unfold runCls classOf
  rw [decodeCls_clsWord]
  cases ltS s w <;> cases ltM s w <;> cases ltL s w <;> rfl

/-- The state after an edge, before its width goes on (R114). -/
def afterEdge (v : Sample) (s : State) : State := emit (.pulse (edgeWidth s)) (setPrev v (setCnt 0 s))

/-- Steps 1 and 2 of R191 by the conditions of R91. -/
theorem runEdge_eq (v : Sample) (s : State) :
    runEdge v s =
      if s.ed.havePrev = false then execEdPrime v s
      else if cntMax s then execEdOvf v s
      else if qualifies s.cfg s.ed.prev v then runWidth (edgeWidth s) (afterEdge v s)
      else execEdCount v s := by
  unfold runEdge
  rw [decodeEdge_edgeWord]
  cases s.ed.havePrev <;> cases cntMax s <;> cases qualifies s.cfg s.ed.prev v <;> rfl

/-- Every block decoder operation answers a next state. -/
theorem runBlock_next (c : SymCode) (w : Width) (s : State) : ∃ t, runBlock c w s = .next t := by
  rw [runBlock_eq]
  cases blockOp s.bd.bdState s.bd.ph s.bd.hCode c with
  | byteEnd => simp only [BdOp.instr, exec, execBdByteEnd]; split_ifs <;> exact ⟨_, rfl⟩
  | skip | foundLong | start | errExpectedM | latch | bit0 | bit1 | dataEnd | badPair => exact ⟨_, rfl⟩

/-- Every width is processed to a next state. -/
theorem runWidth_next (w : Width) (s : State) : ∃ t, runWidth w s = .next t := by
  unfold runWidth
  rw [runCls_eq, runCal_eq]
  split_ifs
  · exact runBlock_next _ _ _
  · exact ⟨_, rfl⟩
  · exact ⟨_, rfl⟩

/-- Every sample is processed by the units to a next state. -/
theorem runEdge_next (v : Sample) (s : State) : ∃ t, runEdge v s = .next t := by
  rw [runEdge_eq]
  split_ifs
  · exact ⟨_, rfl⟩
  · exact ⟨_, rfl⟩
  · exact runWidth_next _ _
  · exact ⟨_, rfl⟩

/-- `SAMPLE` is the units' work, then the position. -/
theorem execSample_eq {v : Sample} {s t : State} (h : runEdge v s = .next t) :
    execSample v s = .next (bumpPos t) := by
  unfold execSample
  rw [h]
  rfl

/-- `SAMPLE` answers a next state only as the units' work, then the position. -/
theorem execSample_cases {v : Sample} {s t : State} (h : execSample v s = .next t) :
    ∃ u, runEdge v s = .next u ∧ t = bumpPos u := by
  obtain ⟨u, hu⟩ := runEdge_next v s
  rw [execSample_eq hu] at h
  cases h
  exact ⟨u, hu, rfl⟩

/-- `SAMPLE_EOS` is the sample, then the end of stream unless the sample halted. -/
theorem execSampleEos_cases {v : Sample} {s t : State} (h : execSampleEos v s = .next t) :
    ∃ u, execSample v s = .next u ∧ ((u.run = .run ∧ execEos u = .next t) ∨ (u.run ≠ .run ∧ t = u)) := by
  obtain ⟨u, hu, hf⟩ := andThen_eq_next h
  refine ⟨u, hu, ?_⟩
  by_cases hr : u.run = .run
  · rw [if_pos hr] at hf
    exact .inl ⟨hr, hf⟩
  · rw [if_neg hr] at hf
    cases hf
    exact .inr ⟨hr, rfl⟩

/-- The operation of a clock edge (R90). -/
def edgeInstr (s : State) : Instr :=
  let c := nextCycle s
  let v := portSample s.cfg c.sample
  if c.rst then .reset
  else if !c.sampleValid && !c.eos then .idle
  else if s.run ≠ .run then .ignore
  else if !c.sampleValid then .eos
  else if c.eos then .sampleEos v
  else .sample v

/-- The word at a clock edge decodes to the operation of the edge: no reserved word is ever formed. -/
theorem decode_nextWord (s : State) : decode (nextWord s) = .ok (edgeInstr s) := by
  simp only [nextWord, decode, decodeTop_topWord, edgeInstr]
  split_ifs <;> rfl

/-- A step in a valid configuration runs the operation of the edge. -/
theorem step_eq {s : State} (hv : s.cfg.Valid) : step s = exec (edgeInstr s) (advance s) := by
  unfold step
  rw [if_pos hv, decode_nextWord]

/-- A step answers a next state only in a valid configuration, by the operation of the edge. -/
theorem step_cases {s t : State} (h : step s = .next t) : s.cfg.Valid ∧ exec (edgeInstr s) (advance s) = .next t := by
  by_cases hv : s.cfg.Valid
  · exact ⟨hv, (step_eq hv) ▸ h⟩
  · unfold step at h
    rw [if_neg hv] at h
    cases h

end Sys2Proof.Machine
end

