-- ==== Sys2Proof/Laws/PerInstr.lean ====
section
/-! SUPPORT. Statements about every operation, one lemma per constructor. -/

namespace Sys2Proof.Laws.CanonicalWord

/-- The encoding of a well-formed operation is a word that selects something. -/
def Statement (i : Instr) : Prop := ∀ g : Config, i.wf g = true → (encode i).selects = true

theorem reset : Statement .reset := fun _ _ => rfl
theorem idle : Statement .idle := fun _ _ => rfl
theorem sample (v : Sample) : Statement (.sample v) := fun _ _ => rfl
theorem sampleEos (v : Sample) : Statement (.sampleEos v) := fun _ _ => rfl
theorem eos : Statement .eos := fun _ _ => rfl
theorem ignore : Statement .ignore := fun _ _ => rfl
theorem edPrime (v : Sample) : Statement (.edPrime v) := fun _ _ => rfl
theorem edCount (v : Sample) : Statement (.edCount v) := fun _ _ => rfl
theorem edEdge (v : Sample) : Statement (.edEdge v) := fun _ _ => rfl
theorem edOvf (v : Sample) : Statement (.edOvf v) := fun _ _ => rfl
theorem calCollect (w : Width) : Statement (.calCollect w) := fun _ _ => rfl
theorem calFinish (w : Width) : Statement (.calFinish w) := fun _ _ => rfl
theorem pcShort (w : Width) : Statement (.pcShort w) := fun _ _ => rfl
theorem pcMedium (w : Width) : Statement (.pcMedium w) := fun _ _ => rfl
theorem pcLong (w : Width) : Statement (.pcLong w) := fun _ _ => rfl
theorem pcUnknown (w : Width) : Statement (.pcUnknown w) := fun _ _ => rfl
theorem bdSkip (c : SymCode) : Statement (.bdSkip c) := fun _ _ => by cases c <;> rfl
theorem bdFoundLong : Statement .bdFoundLong := fun _ _ => rfl
theorem bdStart : Statement .bdStart := fun _ _ => rfl
theorem bdErrExpectedM (c : SymCode) (w : Width) : Statement (.bdErrExpectedM c w) := fun _ _ => by cases c <;> rfl
theorem bdLatch (c : SymCode) (w : Width) : Statement (.bdLatch c w) := fun _ _ => by cases c <;> rfl
theorem bdBit0 : Statement .bdBit0 := fun _ _ => rfl
theorem bdBit1 : Statement .bdBit1 := fun _ _ => rfl
theorem bdByteEnd : Statement .bdByteEnd := fun _ _ => rfl
theorem bdDataEnd : Statement .bdDataEnd := fun _ _ => rfl
theorem bdBadPair (c : SymCode) (w : Width) : Statement (.bdBadPair c w) := fun _ _ => by cases c <;> rfl

end Sys2Proof.Laws.CanonicalWord
end

