-- ==== Sys2Proof/Laws/Step.lean ====
section
/-! SUPPORT. Inversion of a step, of a sample and of a symbol: everything each can do, and what the block decoder leaves alone. The
statements over all steps go through these. -/

namespace Sys2Proof.Machine

/-- What the sample port carries fits it (R82). -/
theorem portSample_fits {g : Config} (hg : g.Valid) (x : Int) : sampleFits g (portSample g x) = true := by
  obtain ⟨k, hk⟩ : ∃ k, g.sampleW = k + 1 := ⟨g.sampleW - 1, by have := hg.1; omega⟩
  have a := Int.le_bmod (x := x) (Nat.two_pow_pos g.sampleW)
  have b := Int.bmod_lt (x := x) (Nat.two_pow_pos g.sampleW)
  have e : ((2 ^ g.sampleW : ℕ) : Int) = 2 * (2 : Int) ^ (g.sampleW - 1) := by
    rw [hk]; push_cast; ring
  unfold sampleFits portSample
  apply decide_eq_true
  rw [e] at a b
  generalize (2 : Int) ^ (g.sampleW - 1) = y at a b ⊢
  generalize Int.bmod x (2 ^ g.sampleW) = z at a b ⊢
  have e2 : (2 * y + 1) / 2 = y := by omega
  have e3 : 2 * y / 2 = y := by omega
  rw [e2] at b
  rw [e3] at a
  exact ⟨a, b⟩

/-- One induction for every invariant of a step: what the advance of the inputs, a reset, a sample taken while the machine runs and
an end of stream while it runs keep, every step keeps. -/
theorem step_keeps {Q : State → Prop} {s t : State}
    (hadv : ∀ s, Q s → Q (advance s)) (hreset : ∀ s, s.cfg.Valid → Q s → Q (resetRegisters s))
    (hsample : ∀ s v t, s.cfg.Valid → sampleFits s.cfg v = true → s.run = .run → Q s → execSample v s = .next t → Q t)
    (heos : ∀ s t, s.run = .run → Q s → execEos s = .next t → Q t) (hs : Q s) (h : step s = .next t) : Q t := by
  obtain ⟨hv, h⟩ := step_cases h
  have hs := hadv s hs
  have hv' : (advance s).cfg.Valid := hv
  have hf := portSample_fits hv (nextCycle s).sample
  unfold edgeInstr at h
  dsimp only at h
  split_ifs at h with h1 h2 h3 h4 h5
  · cases h; exact hreset _ hv' hs
  · cases h; exact hs
  · cases h; exact hs
  · exact heos _ _ (by simpa using h3) hs h
  · obtain ⟨u, hu, ⟨hr, ht⟩ | ⟨hr, rfl⟩⟩ := execSampleEos_cases h
    · exact heos _ _ hr (hsample _ _ _ hv' hf (by simpa using h3) hs hu) ht
    · exact hsample _ _ _ hv' hf (by simpa using h3) hs hu
  · exact hsample _ _ _ hv' hf (by simpa using h3) hs h

/-- Everything a sample can do before the position advances (R91, R92, R112 to R115, R191), with the conditions of each case. -/
inductive EdgeStep (v : Sample) (s t : State) : Prop where
  | prime (hp : s.ed.havePrev = false) (e : t = { s with ed := { s.ed with prev := v, havePrev := true } })
  | ovf (hp : s.ed.havePrev = true) (hm : s.ed.cnt = 2 ^ s.cfg.cntW - 1) (e : t = raiseFatal .cntOvf {} (setPrev v s))
  | count (hp : s.ed.havePrev = true) (hm : s.ed.cnt ≠ 2 ^ s.cfg.cntW - 1) (hq : qualifies s.cfg s.ed.prev v = false)
      (e : t = setPrev v (setCnt (s.ed.cnt + 1) s))
  | collect (hp : s.ed.havePrev = true) (hm : s.ed.cnt ≠ 2 ^ s.cfg.cntW - 1) (hq : qualifies s.cfg s.ed.prev v = true)
      (ht : s.cls.thValid = false) (hl : s.cal.calN ≠ s.cfg.calCount - 1)
      (e : execCalCollect (edgeWidth s) (afterEdge v s) = .next t)
  | finish (hp : s.ed.havePrev = true) (hm : s.ed.cnt ≠ 2 ^ s.cfg.cntW - 1) (hq : qualifies s.cfg s.ed.prev v = true)
      (ht : s.cls.thValid = false) (hl : s.cal.calN = s.cfg.calCount - 1)
      (e : execCalFinish (edgeWidth s) (afterEdge v s) = .next t)
  | cls (hp : s.ed.havePrev = true) (hm : s.ed.cnt ≠ 2 ^ s.cfg.cntW - 1) (hq : qualifies s.cfg s.ed.prev v = true)
      (ht : s.cls.thValid = true)
      (e : runBlock (classOf s (edgeWidth s)) (edgeWidth s)
        (emit (.sym (classOf s (edgeWidth s)) (edgeWidth s)) (afterEdge v s)) = .next t)

/-- A sample does one of those. -/
theorem runEdge_cases {v : Sample} {s t : State} (h : runEdge v s = .next t) : EdgeStep v s t := by
  rw [runEdge_eq] at h
  split_ifs at h with h1 h2 h3
  · cases h; exact .prime h1 rfl
  · cases h; exact .ovf (by simpa using h1) (by simpa [cntMax] using h2) rfl
  · unfold runWidth at h
    rw [runCls_eq, runCal_eq] at h
    have e1 : (afterEdge v s).cls = s.cls := rfl
    have e2 : calLast (afterEdge v s) = calLast s := rfl
    have e3 : classOf (afterEdge v s) = classOf s := rfl
    rw [e1, e2, e3] at h
    split_ifs at h with h4 h5
    · exact .cls (by simpa using h1) (by simpa [cntMax] using h2) h3 h4 h
    · exact .finish (by simpa using h1) (by simpa [cntMax] using h2) h3 (by simpa using h4) (by simpa [calLast] using h5) h
    · exact .collect (by simpa using h1) (by simpa [cntMax] using h2) h3 (by simpa using h4) (by simpa [calLast] using h5) h
  · cases h; exact .count (by simpa using h1) (by simpa [cntMax] using h2) (by simpa using h3) rfl

/-- Everything a symbol can do in the block decoder (R161 to R173), with the conditions of each case. -/
inductive BlockStep (c : SymCode) (w : Width) (s : State) : State → Prop where
  | skip (hb : s.bd.bdState = .seek) (hc : c ≠ .long) : BlockStep c w s s
  | foundLong (hb : s.bd.bdState = .seek) (hc : c = .long) : BlockStep c w s (setBdState .expect s)
  | start (hb : s.bd.bdState = .expect) (hc : c = .medium) :
      BlockStep c w s (emit .blockStart (clearAcc (setPh false (setBdState .read s))))
  | latch (hb : s.bd.bdState = .read) (hp : s.bd.ph = false) :
      BlockStep c w s { s with bd := { s.bd with hCode := c, hW := w, ph := true } }
  | bit (hb : s.bd.bdState = .read) (hp : s.bd.ph = true) (b : Bool)
      (hc : if b then s.bd.hCode = .medium ∧ c = .short else s.bd.hCode = .short ∧ c = .medium) :
      BlockStep c w s (setPh false (appendBit b s))
  | byte (hb : s.bd.bdState = .read) (hp : s.bd.ph = true) (hc : s.bd.hCode = .long ∧ c = .medium) (hn : s.bd.nbits.val = 9)
      (hk : parOk s.bd.acc = true) :
      BlockStep c w s (setPh false (clearAcc (emit (.byte (accByte s.bd.acc)) s)))
  | dataEnd (hb : s.bd.bdState = .read) (hp : s.bd.ph = true) (hc : s.bd.hCode = .long ∧ c = .short) :
      BlockStep c w s (emit .blockEnd (setBdState .seek (setPh false (clearAcc s))))
  | fatal (hb : s.bd.bdState ≠ .seek) (code : ErrCode) (info : ErrInfo) (h0 : code ≠ .none) (h1 : code ≠ .cntOvf)
      (ha : info.aW = 0 ∨ info.aW = s.bd.hW) (hw : info.bW = 0 ∨ info.bW = w) : BlockStep c w s (raiseFatal code info s)

/-- A symbol does one of those. -/
theorem runBlock_cases {c : SymCode} {w : Width} {s t : State} (h : runBlock c w s = .next t) : BlockStep c w s t := by
  rw [runBlock_eq] at h
  unfold blockOp at h
  split at h
  · rename_i hb
    split_ifs at h with hc <;> cases h
    · exact .foundLong hb hc
    · exact .skip hb hc
  · rename_i hb
    split_ifs at h with hc <;> cases h
    · exact .start hb hc
    · exact .fatal (by simp [hb]) _ _ (by simp) (by simp) (.inl rfl) (.inr rfl)
  · rename_i hb
    split_ifs at h with hp h1 h2 h3 h4
    · cases h; exact .latch hb hp
    · cases h; exact .bit hb (by simpa using hp) false h1
    · cases h; exact .bit hb (by simpa using hp) true h2
    · simp only [BdOp.instr, exec, execBdByteEnd] at h
      split_ifs at h with g1 g2 g3 <;> cases h
      · exact .fatal (by simp [hb]) _ _ (by simp) (by simp) (.inl rfl) (.inl rfl)
      · exact .fatal (by simp [hb]) _ _ (by simp) (by simp) (.inl rfl) (.inl rfl)
      · exact .fatal (by simp [hb]) _ _ (by simp) (by simp) (.inl rfl) (.inl rfl)
      · exact .byte hb (by simpa using hp) h3 (by have := s.bd.nbits.isLt; omega) (by simpa using g3)
    · cases h; exact .dataEnd hb (by simpa using hp) h4
    · cases h
      exact .fatal (by simp [hb]) _ _ (by simp) (by simp) (.inr rfl) (.inr rfl)
/-- The events of a joined trace's pulses. -/
theorem pulses_append (a b : List Event) : pulses (a ++ b) = pulses a ++ pulses b := List.filterMap_append

/-- What a symbol leaves alone, and the events it can add. -/
theorem runBlock_frame {c : SymCode} {w : Width} {s t : State} (h : runBlock c w s = .next t) :
    t.ed = s.ed ∧ t.cal = s.cal ∧ t.cls = s.cls ∧ t.pos = s.pos ∧ t.cfg = s.cfg ∧ t.stim = s.stim ∧
    (∃ evs, t.trace = s.trace ++ evs ∧ t.out = s.out ++ evs ∧ pulses evs = [] ∧ evs.length ≤ 1 ∧
      ∀ e ∈ evs, e.isBlockEvent = true) ∧
    (t.run = s.run ∧ t.err = s.err ∨ t.run = .halt ∧ t.err.errCode ≠ .none ∧ t.err.errCode ≠ .cntOvf) := by
  rcases runBlock_cases h with ⟨hb,hc⟩ | ⟨hb,hc⟩ | ⟨hb,hc⟩ | ⟨hb,hp⟩ | ⟨hb,hp,b,hc⟩ | ⟨hb,hp,hc,hn,hk⟩ | ⟨hb,hp,hc⟩ | ⟨hb,code,info,g0,g1,ha,hw'⟩
  · exact ⟨rfl,rfl,rfl,rfl,rfl,rfl,⟨[], by simp, by simp, rfl, by simp, by simp⟩, .inl ⟨rfl,rfl⟩⟩
  · exact ⟨rfl,rfl,rfl,rfl,rfl,rfl,⟨[], by simp, by simp, rfl, by simp, by simp⟩, .inl ⟨rfl,rfl⟩⟩
  · exact ⟨rfl,rfl,rfl,rfl,rfl,rfl,⟨_, rfl, rfl, rfl, by simp, by simp [Event.isBlockEvent]⟩, .inl ⟨rfl,rfl⟩⟩
  · exact ⟨rfl,rfl,rfl,rfl,rfl,rfl,⟨[], by simp, by simp, rfl, by simp, by simp⟩, .inl ⟨rfl,rfl⟩⟩
  · exact ⟨rfl,rfl,rfl,rfl,rfl,rfl,⟨[], by simp, by simp, rfl, by simp, by simp⟩, .inl ⟨rfl,rfl⟩⟩
  · exact ⟨rfl,rfl,rfl,rfl,rfl,rfl,⟨_, rfl, rfl, rfl, by simp, by simp [Event.isBlockEvent, Event.byteValue]⟩, .inl ⟨rfl,rfl⟩⟩
  · exact ⟨rfl,rfl,rfl,rfl,rfl,rfl,⟨_, rfl, rfl, rfl, by simp, by simp [Event.isBlockEvent]⟩, .inl ⟨rfl,rfl⟩⟩
  · exact ⟨rfl,rfl,rfl,rfl,rfl,rfl,⟨_, rfl, rfl, rfl, by simp, by simp [Event.isBlockEvent, Event.isFatal]⟩, .inr ⟨rfl,g0,g1⟩⟩

/-- A sequence of samples is run part by part while the machine runs. -/
theorem runSamples_append {a b : List Sample} {s t : State} (h : runSamples a s = .next t) (hr : t.run = .run) :
    runSamples (a ++ b) s = runSamples b t := by
  induction a generalizing s with
  | nil => cases h; rfl
  | cons v a ih =>
    simp only [runSamples, List.cons_append] at h ⊢
    split_ifs at h ⊢ with hs
    · obtain ⟨u, hu, h⟩ := andThen_eq_next h
      rw [hu]; exact ih h
    · cases h; exact absurd hr hs

/-- A sequence of symbols is run part by part while the machine runs. -/
theorem runSymbols_append {a b : Symbols} {s t : State} (h : runSymbols a s = .next t) (hr : t.run = .run) :
    runSymbols (a ++ b) s = runSymbols b t := by
  induction a generalizing s with
  | nil => cases h; rfl
  | cons x a ih =>
    obtain ⟨c, w⟩ := x
    simp only [runSymbols, List.cons_append] at h ⊢
    split_ifs at h ⊢ with hs
    · obtain ⟨u, hu, h⟩ := andThen_eq_next h
      rw [hu]; exact ih h
    · cases h; exact absurd hr hs

end Sys2Proof.Machine
end

