-- ==== Sys2Proof/Tests/Slice0.lean ====
section
/-! SUPPORT. Tests. Expected values are spec/95_test_vectors.md's rows (named in the docstrings) or are worked out by hand from
the rule a docstring names. -/

open Sys2Proof Sys2Proof.Machine

namespace Sys2Proof.Tests

/-! ### Helpers -/

/-- A next state with a property. -/
def holds (r : Result) (p : State → Bool) : Bool :=
  match r with
  | .next t => p t
  | .fault _ => false
  | .refused _ => false

/-- A configuration with a short calibration: three widths, the middle one. -/
def cfg3 : Config := { calCount := 3, calRank := 1 }

/-- The same with the thresholds preset for short pulses of 16 samples. -/
def cfgReady : Config := { calCount := 3, calRank := 1, calBypass := true, s0Preset := 16 }

/-- After reset, uncalibrated. -/
def base : State := State.resetWith cfg3

/-- After reset, thresholds loaded. -/
def ready : State := State.resetWith cfgReady

/-- The ports of the next clock edge carry a sample. -/
def withSample (v : Int) (s : State) : State := { s with stim := [sampleCycle v] }

/-- The ports of the next clock edge. -/
def withCycle (rst sv : Bool) (v : Int) (eos : Bool) (s : State) : State := { s with stim := [⟨rst, sv, v, eos⟩] }

/-- A previous sample and a pair count. -/
def pair (prev : Int) (cnt : Nat) (s : State) : State := { s with ed := { havePrev := true, prev := prev, cnt := cnt } }

/-- A block decoder state. -/
def block (b : BdState) (ph : Bool) (h : SymCode) (acc : Acc) (n : BitCount) (s : State) : State :=
  { s with bd := { bdState := b, ph := ph, hCode := h, hW := 0, acc := acc, nbits := n } }

/-- A halted state. -/
def halted : State := { base with run := .halt, err := { ErrRegs.reset with errCode := .badPair } }

/-! ### Ill-formed configurations and operands are refused -/

theorem test_default_config_valid : Config.default.Valid := by decide
theorem test_cfg3_valid : cfg3.Valid := by decide
theorem test_cfgReady_valid : cfgReady.Valid := by decide
theorem test_bad_sampleW : ¬ ({ sampleW := 1, edgeThreshold := 0 } : Config).Valid := by decide
theorem test_bad_cntW : ¬ ({ cntW := 6 } : Config).Valid := by decide
theorem test_bad_calCount : ¬ ({ calCount := 0, calRank := 0 } : Config).Valid := by decide
theorem test_bad_calRank : ¬ ({ calRank := 100 } : Config).Valid := by decide
theorem test_bad_threshold_high : ¬ ({ edgeThreshold := 65536 } : Config).Valid := by decide
theorem test_bad_threshold_low : ¬ ({ edgeThreshold := -65536 } : Config).Valid := by decide
theorem test_bad_preset_zero : ¬ ({ calBypass := true, s0Preset := 0 } : Config).Valid := by decide
theorem test_bad_preset_wide : ¬ ({ calBypass := true, s0Preset := 4294967296 } : Config).Valid := by decide
theorem test_bad_kDen_zero : ¬ ({ kDen := 0 } : Config).Valid := by decide
theorem test_bad_kDen_wide : ¬ ({ kDen := 128 } : Config).Valid := by decide
theorem test_bad_kS : ¬ ({ kS := 154 } : Config).Valid := by decide
theorem test_bad_kM : ¬ ({ kM := 209 } : Config).Valid := by decide
theorem test_bad_kL : ¬ ({ kL := 256 } : Config).Valid := by decide

/-- spec/30_encoding.md R82: 32768 does not fit 16 signed bits, -32768 does. -/
theorem test_bad_sample : [Instr.sample 32768, .sampleEos 32768, .edPrime 32768, .edCount 32768, .edEdge (-32769), .edOvf 32768].all
    (fun i => !i.wf Config.default) = true ∧ (Instr.sample (-32768)).wf Config.default = true := by decide

/-- spec/30_encoding.md R83: a width is at least 1 and fits the counter. -/
theorem test_bad_width : [Instr.calCollect 0, .calFinish 0, .pcShort 0, .pcMedium 0, .pcLong 4294967296, .pcUnknown 0].all
    (fun i => !i.wf Config.default) = true ∧ (Instr.pcLong 4294967295).wf Config.default = true := by decide

/-- spec/30_encoding.md R94: no `Long` is skipped, a `Medium` is what is expected; a symbol's width fits. -/
theorem test_bad_symbol : [Instr.bdSkip .long, .bdErrExpectedM .medium 0, .bdErrExpectedM .short 4294967296,
    .bdLatch .short 4294967296, .bdBadPair .short 4294967296].all (fun i => !i.wf Config.default) = true := by decide

/-- spec/93_implementation_defined.md U17: a step under such a configuration is refused. -/
theorem test_step_refuses_bad_config :
    (match step (State.resetWith { calCount := 0, calRank := 0 }) with | .refused .badConfig => true | _ => false) = true := by
  decide

/-! ### Decoding: words written out from spec/30_encoding.md R90 to R94 -/

theorem test_decode_reset : decode (.top 0b11111#5 9) = .ok .reset := by decide
theorem test_decode_idle : decode (.top 0b00010#5 9) = .ok .idle := by decide
theorem test_decode_sample : decode (.top 0b01000#5 (-9)) = .ok (.sample (-9)) := by decide
theorem test_decode_sample_eos : decode (.top 0b01100#5 7) = .ok (.sampleEos 7) := by decide
theorem test_decode_eos : decode (.top 0b00100#5 7) = .ok .eos := by decide
theorem test_decode_ignore : decode (.top 0b01101#5 7) = .ok .ignore ∧ decode (.top 0b00110#5 7) = .ok .ignore := by decide
theorem test_decode_prime : decode (.edge 0b01111#5 5) = .ok (.edPrime 5) := by decide
theorem test_decode_count : decode (.edge 0b11010#5 5) = .ok (.edCount 5) ∧ decode (.edge 0b10110#5 5) = .ok (.edCount 5) := by
  decide
theorem test_decode_edge : decode (.edge 0b11110#5 5) = .ok (.edEdge 5) := by decide
theorem test_decode_ovf : decode (.edge 0b11111#5 5) = .ok (.edOvf 5) := by decide
theorem test_decode_collect : decode (.cal 0b0#1 16) = .ok (.calCollect 16) := by decide
theorem test_decode_finish : decode (.cal 0b1#1 16) = .ok (.calFinish 16) := by decide
theorem test_decode_short : decode (.cls 0b111#3 16) = .ok (.pcShort 16) := by decide
theorem test_decode_medium : decode (.cls 0b011#3 22) = .ok (.pcMedium 22) := by decide
theorem test_decode_long : decode (.cls 0b001#3 30) = .ok (.pcLong 30) := by decide
theorem test_decode_unknown : decode (.cls 0b000#3 40) = .ok (.pcUnknown 40) := by decide
theorem test_decode_skip : decode (.blk 0b0010111#7 40) = .ok (.bdSkip .unknown) := by decide
theorem test_decode_found_long : decode (.blk 0b0001110#7 30) = .ok .bdFoundLong := by decide
theorem test_decode_start : decode (.blk 0b0110001#7 22) = .ok .bdStart := by decide
theorem test_decode_err_expected_m : decode (.blk 0b0100010#7 30) = .ok (.bdErrExpectedM .long 30) := by decide
theorem test_decode_latch : decode (.blk 0b1001110#7 30) = .ok (.bdLatch .long 30) := by decide
theorem test_decode_bit0 : decode (.blk 0b1010001#7 22) = .ok .bdBit0 := by decide
theorem test_decode_bit1 : decode (.blk 0b1010100#7 16) = .ok .bdBit1 := by decide
theorem test_decode_byte_end : decode (.blk 0b1011001#7 22) = .ok .bdByteEnd := by decide
theorem test_decode_data_end : decode (.blk 0b1011000#7 16) = .ok .bdDataEnd := by decide
theorem test_decode_bad_pair :
    decode (.blk 0b1010011#7 41) = .ok (.bdBadPair .unknown 41) ∧ decode (.blk 0b1011101#7 22) = .ok (.bdBadPair .medium 22) := by
  decide
theorem test_decode_reserved :
    decode (.top 0b01011#5 0) = .error (.topReserved 0b01011#5) ∧ decode (.blk 0b1101010#7 0) = .error (.blkReserved 0b1101010#7) := by
  decide

/-- The rows of each operation map do not overlap: two rows that fit a word give the same operation. -/
theorem test_rows_disjoint :
    (∀ w, ∀ r ∈ topRows, ∀ q ∈ topRows, r.fits w = true → q.fits w = true → r = q) ∧
    (∀ w, ∀ r ∈ edgeRows, ∀ q ∈ edgeRows, r.fits w = true → q.fits w = true → r = q) ∧
    (∀ w, ∀ r ∈ clsRows, ∀ q ∈ clsRows, r.fits w = true → q.fits w = true → r = q) := by decide

/-- The same for the block decoder's map. -/
theorem test_blk_rows_disjoint :
    ∀ r ∈ blkRows, ∀ q ∈ blkRows, (r.mask &&& q.mask &&& (r.pat ^^^ q.pat) = 0#7) → r = q := by decide

/-! ### Table words and the step that runs them -/

/-- spec/opcode_table.json: match words no other row has. -/
theorem test_table_words :
    decodeTableWord 8 0x10 = some .reset ∧ decodeTableWord 8 0x08 = some (.sample 0) ∧ decodeTableWord 8 0x1e = some (.edEdge 0) ∧
      decodeTableWord 8 0x21 = some .bdStart ∧ decodeTableWord 8 0x59 = some .bdByteEnd ∧ decodeTableWord 8 0x7f = none ∧
      decodeTableWord 1 1 = some (.calFinish 0) ∧ decodeTableWord 3 4 = some (.pcShort 0) := by decide

/-- The step after placing the word of `ED.EDGE` emits a pulse. -/
theorem test_fetch_edge :
    holds (step (State.reset.withFetchWord 8 0x1e)) (fun t => t.out == [.pulse 1] && t.pos == 1) = true := by decide

/-- The step after placing the word of `BD.START` opens a block. -/
theorem test_fetch_start :
    holds (step (State.reset.withFetchWord 8 0x21))
      (fun t => t.out == [.pulse 22, .sym .medium 22, .blockStart] && t.bd.bdState == .read) = true := by decide

/-- The step after placing the word of `EOS` ends the session. -/
theorem test_fetch_eos : holds (step (State.reset.withFetchWord 8 0x04)) (fun t => t.run == .done) = true := by decide

/-! ### One operation each -/

/-- TOP-1: the sample and the end of stream of a reset's cycle are lost. -/
theorem test_reset : holds (step (withCycle true true 123 true halted))
    (fun t => t.run == .run && t.pos == 0 && t.ed == EdgeRegs.reset && t.err == ErrRegs.reset && t.trace == []) = true := by decide

/-- TOP-2. -/
theorem test_idle : holds (step (withCycle false false 5 false (pair 9 3 base)))
    (fun t => t.ed == (pair 9 3 base).ed && t.pos == 0 && t.out == []) = true := by decide

/-- TOP-3. -/
theorem test_sample : holds (step (withSample (-3000) base))
    (fun t => t.ed == { havePrev := true, prev := -3000, cnt := 0 } && t.pos == 1) = true := by decide

/-- spec/10_state.md R24: the position wraps. -/
theorem test_sample_pos_wraps :
    holds (step { withSample 1 base with pos := 18446744073709551615 }) (fun t => t.pos == 0) = true := by decide

/-- TOP-5. -/
theorem test_sample_eos : holds (step (withCycle false true 7 true base))
    (fun t => t.ed == { havePrev := true, prev := 7, cnt := 0 } && t.pos == 1 && t.run == .done &&
      t.out == [.done ⟨false, 0, .seek, false, 0, false⟩]) = true := by decide

/-- R196: a fatal error comes before the end of stream, which is not reported. -/
theorem test_sample_eos_halts : holds (step (withCycle false true (-1) true (pair 3000 4294967295 base)))
    (fun t => t.run == .halt && t.out == [.fatal .cntOvf {} 0]) = true := by decide

/-- R192 (hand): an open block and a half pair are reported, not judged. -/
theorem test_eos : holds (exec .eos (block .read true .long 5 3 ready))
    (fun t => t.run == .done && t.out == [.done ⟨true, 0, .read, true, 3, true⟩] && t.bd.nbits == 3) = true := by decide

/-- R195: ED-17's ignored samples. -/
theorem test_ignore : holds (step (withSample 3000 halted)) (fun t => t.ed == halted.ed && t.pos == 0 && t.out == []) = true := by
  decide

/-- ED-1. -/
theorem test_prime : holds (exec (.edPrime 5) base) (fun t => t.ed == { havePrev := true, prev := 5, cnt := 0 } && t.out == []) = true := by
  decide

/-- ED-3: a drop of exactly 2000 is no edge; ED-5: `b = 0` is not negative. -/
theorem test_count : holds (step (withSample (-1000) (pair 1000 0 base)))
    (fun t => t.ed == { havePrev := true, prev := -1000, cnt := 1 } && t.out == []) = true ∧
    holds (step (withSample 0 (pair 3000 0 base))) (fun t => t.ed.cnt == 1 && t.out == []) = true := by decide

/-- ED-6: a negative sample before the drop. -/
theorem test_count_negative_start : holds (step (withSample (-3000) (pair (-1) 0 base)))
    (fun t => t.ed.cnt == 1 && t.out == []) = true := by decide

/-- ED-9: the difference is formed without wrap-around; ED-2: zero counts as non-negative. -/
theorem test_edge : holds (step (withSample (-32768) (pair 32767 0 base)))
    (fun t => t.ed == { havePrev := true, prev := -32768, cnt := 0 } && t.out == [.pulse 1]) = true ∧
    holds (step (withSample (-2001) (pair 0 0 base))) (fun t => t.out == [.pulse 1]) = true := by decide

/-- ED-15: `CNT_W = 7`, width 127. -/
theorem test_edge_widest : holds (step (withSample (-3000) (pair 3000 126 (State.resetWith { calCount := 3, calRank := 1, cntW := 7 }))))
    (fun t => t.out == [.pulse 127] && t.ed.cnt == 0) = true := by decide

/-- ED-16. -/
theorem test_ovf :
    holds (step { withSample (-3000) (pair 3000 127 (State.resetWith { calCount := 3, calRank := 1, cntW := 7 })) with pos := 128 })
      (fun t => t.ed == { havePrev := true, prev := -3000, cnt := 127 } && t.pos == 129 && t.run == .halt &&
        t.out == [.fatal .cntOvf {} 128] && t.err.errPos == 128) = true := by decide

/-- R131 (hand). -/
theorem test_collect : holds (exec (.calCollect 18) { base with cal := { calN := 1, calBuf := [16, 0, 0] } })
    (fun t => t.cal == { calN := 2, calBuf := [16, 18, 0] } && t.out == [] && !t.cls.thValid) = true := by decide

/-- R132, CAL-1's thresholds: the rank statistic 16 of 90, 7, 16 includes the last width. -/
theorem test_finish : holds (exec (.calFinish 16) { base with cal := { calN := 2, calBuf := [90, 7, 0] } })
    (fun t => t.cal == { calN := 3, calBuf := [90, 7, 16] } && t.out == [.calDone 16] &&
      t.cls == { s0 := 16, thS := 1760, thM := 2464, thL := 3344, thValid := true }) = true := by decide

/-- CAL-2's shape in small: of four widths, index 2 from 0 is the upper middle value. -/
theorem test_rank_upper_middle : rankStatistic { calCount := 4, calRank := 2 } [17, 15, 17, 15] = 17 := by decide

/-- PC-3 and PC-4 on either side of the threshold; the width goes on with the symbol. -/
theorem test_short : clsWord ready 17 = 0b111#3 ∧ holds (exec (.pcShort 17) ready) (fun t => t.out == [.sym .short 17]) = true := by
  decide

/-- PC-17: the tie that floating point gets wrong. -/
theorem test_medium : clsWord (State.resetWith { cfgReady with s0Preset := 50 }) 55 = 0b011#3 ∧
    holds (exec (.pcMedium 55) ready) (fun t => t.out == [.sym .medium 55]) = true := by decide

/-- PC-6, PC-25. -/
theorem test_long : clsWord ready 25 = 0b001#3 ∧ clsWord (State.resetWith { cfgReady with s0Preset := 100 }) 154 = 0b001#3 ∧
    holds (exec (.pcLong 25) ready) (fun t => t.out == [.sym .long 25]) = true := by decide

/-- PC-8, PC-27. -/
theorem test_unknown : clsWord ready 34 = 0b000#3 ∧ clsWord (State.resetWith { cfgReady with s0Preset := 100 }) 209 = 0b000#3 ∧
    holds (exec (.pcUnknown 34) ready) (fun t => t.out == [.sym .unknown 34]) = true := by decide

/-- BD-4. -/
theorem test_skip : holds (runBlock .unknown 40 ready) (fun t => t == ready) = true := by decide

/-- BD-3. -/
theorem test_found_long : holds (runBlock .long 0 ready) (fun t => t.bd.bdState == .expect && t.out == []) = true := by decide

/-- BD-6. -/
theorem test_start : holds (runBlock .medium 0 (block .expect false .short 0 0 ready))
    (fun t => t.bd == { BlkRegs.reset with bdState := .read } && t.out == [.blockStart]) = true := by decide

/-- BD-8. -/
theorem test_err_expected_m : holds (runBlock .unknown 40 (block .expect false .short 0 0 ready))
    (fun t => t.bd.bdState == .expect && t.run == .halt && t.err.errCode.bits == 1#3 && t.err.errBCode == .unknown &&
      t.err.errBW == 40 && t.err.errAW == 0) = true := by decide

/-- BD-9. -/
theorem test_latch : holds (runBlock .unknown 40 (block .read false .short 0 0 ready))
    (fun t => t.bd == { BlkRegs.reset with bdState := .read, ph := true, hCode := .unknown, hW := 40 } && t.out == []) = true := by
  decide

/-- BD-11; a tenth bit is counted and not stored (R168). -/
theorem test_bit0 : holds (runBlock .medium 0 (block .read true .short 0 0 ready))
    (fun t => t.bd.ph == false && t.bd.acc == 0 && t.bd.nbits == 1 && t.bd.hCode == .short) = true ∧
    holds (exec .bdBit0 (block .read true .short 0x1ff 9 ready)) (fun t => t.bd.acc == 0x1ff && t.bd.nbits == 10) = true := by decide

/-- BD-14; the ninth bit is bit 8; an eleventh changes nothing (R168). -/
theorem test_bit1 : holds (runBlock .short 0 (block .read true .medium 0 0 ready))
    (fun t => t.bd.acc == 0b000000001#9 && t.bd.nbits == 1) = true ∧
    holds (exec .bdBit1 (block .read true .medium 0 8 ready)) (fun t => t.bd.acc == 0b100000000#9 && t.bd.nbits == 9) = true ∧
    holds (exec .bdBit1 (block .read true .medium 5 10 ready)) (fun t => t.bd.acc == 5 && t.bd.nbits == 10) = true := by decide

/-- The bytes `0xA5` and `0x7F` of the byte table: accumulators `110100101` and `001111111`. -/
theorem test_byte_end : holds (runBlock .medium 0 (block .read true .long 0b110100101#9 9 ready))
    (fun t => t.out == [.byte 0xA5] && t.bd.acc == 0 && t.bd.nbits == 0 && t.bd.ph == false && t.bd.bdState == .read) = true ∧
    holds (exec .bdByteEnd (block .read true .long 0b001111111#9 9 ready)) (fun t => t.out == [.byte 0x7F]) = true := by decide

/-- Eight bits, ten or more bits, and an even number of ones among nine. -/
theorem test_byte_end_errors :
    holds (exec .bdByteEnd (block .read true .long 0b011111111#9 8 ready))
      (fun t => t.out == [.fatal .shortByte { n := 8 } 0] && t.err.errN == 8 && t.bd.nbits == 8) = true ∧
    holds (exec .bdByteEnd (block .read true .long 0b111111111#9 10 ready))
      (fun t => t.out == [.fatal .longByte { n := 10 } 0] && t.bd.acc == 0b111111111#9) = true ∧
    holds (exec .bdByteEnd (block .read true .long 0b010100101#9 9 ready))
      (fun t => t.out == [.fatal .parity { acc := 0b010100101#9 } 0] && t.run == .halt) = true := by decide

/-- The end of data with five bits pending: dropped without error. -/
theorem test_data_end : holds (runBlock .short 0 (block .read true .long 0b11111#9 5 ready))
    (fun t => t.out == [.blockEnd] && t.bd == { BlkRegs.reset with hCode := .long } && t.run == .run) = true := by decide

/-- BD-25. -/
theorem test_bad_pair :
    holds (runBlock .unknown 41 { ready with bd := { BlkRegs.reset with bdState := .read, ph := true, hCode := .unknown, hW := 40 } })
      (fun t => t.out == [.fatal .badPair { aCode := .unknown, aW := 40, bCode := .unknown, bW := 41 } 0] && t.run == .halt &&
        t.bd.ph && t.err.errCode.bits == 4#3) = true := by decide

/-- BD-19: no bits at the marker. -/
theorem test_byte_end_no_bits : holds (runBlock .medium 0 (block .read true .long 0 0 ready))
    (fun t => t.out == [.fatal .shortByte { n := 0 } 0] && t.bd.ph) = true := by decide

/-! ### Ports, traces, stimulus -/

/-- R81, R42 (hand): the strobes and levels of an edge that completed a symbol. -/
theorem test_ports : holds (step (withSample (-3000) (pair 3000 21 (block .expect false .short 0 0 ready))))
    (fun t => outputPorts t == ⟨some 22, false, some (.medium, 22), true, none, false, false, false, false, false⟩ &&
      (statusPorts t).bdState == 0b10#2) = true := by
  decide

/-- R88 (hand): `err_code` on top, the position at the bottom. -/
theorem test_fatal_payload :
    (fatalPayload { ready with err := { ErrRegs.reset with errCode := .badPair, errBW := 41, errN := 10, errPos := 7 } }).toNat =
      (4 * 2 ^ 68 + 41) * 2 ^ 77 + 10 * 2 ^ 73 + 7 := by decide

/-- R197, R100 (hand): one closed block of two bytes and an open one. -/
theorem test_blocks :
    blocks [.blockStart, .byte 0x41, .byte 0x0a, .blockEnd, .blockStart, .byte 1] = [[0x41, 0x0a]] ∧
      residue [.blockStart, .byte 0x41, .blockEnd, .blockStart, .byte 1] = some [1] ∧
      hexLine [0x41, 0x0a] = "41 0a".toList := by decide

/-- The row of `0x41` in the byte table. -/
theorem test_byte_symbols : (byteSymbols 0x41).map Prod.fst =
    [.medium, .short, .short, .medium, .short, .medium, .short, .medium, .short, .medium] ++
      [.short, .medium, .medium, .short, .short, .medium, .medium, .short, .long, .medium] := by decide

/-- R98: `P(4)`. -/
theorem test_pulse_samples : pulseSamples 4 = [3000, 3000, 3000, -3000] := by decide

/-- R82 (hand): what the 16 wires of the port carry. -/
theorem test_port_sample : portSample Config.default 65535 = -1 ∧ portSample Config.default (-32768) = -32768 := by decide

/-! ### Every statement's hypotheses are met -/

theorem witness_reset_clauses : base.cfg.calBypass = false ∧ Config.SourceConstants base.cfg ∧ ready.cfg.calBypass = true ∧
    Config.SourceConstants ready.cfg := by
  refine ⟨rfl, ⟨rfl, rfl, rfl, rfl⟩, rfl, ⟨rfl, rfl, rfl, rfl⟩⟩

theorem witness_default_reset : State.reset.cfg = Config.default ∧ State.reset.stim = [] := ⟨rfl, rfl⟩

theorem witness_step_decodes :
    (withSample 7 base).cfg.Valid ∧ decode (nextWord (withSample 7 base)) = .ok (.sample 7) := by decide

theorem witness_config : base.cfg.Valid ∧ ¬ (State.resetWith { calCount := 0, calRank := 0 }).cfg.Valid := by decide

theorem witness_idle : base.cfg.Valid ∧ (nextCycle base).active = false := by decide

theorem witness_ignore : (withSample 7 halted).cfg.Valid ∧ (withSample 7 halted).run ≠ .run ∧
    (nextCycle (withSample 7 halted)).rst = false ∧ (nextCycle (withSample 7 halted)).sampleValid = true ∧
    (withCycle false false 0 true { base with run := .done }).run ≠ .run ∧
    (nextCycle (withCycle false false 0 true { base with run := .done })).eos = true := by decide

/-- `SAMPLE_EOS`: a sample after which the machine runs, and one that halts it. -/
theorem witness_sample_eos : holds (exec (.sample 7) base) (fun t => t.run == .run) = true ∧
    holds (exec (.sample 7) (pair 0 4294967295 base)) (fun t => t.run == .halt) = true := by decide

/-- `SAMPLE`: no edge; an edge before and after calibration; a halt. -/
theorem witness_sample_order :
    decode (.edge (edgeWord base 7) 7) = .ok (.edPrime 7) ∧
    (decode (.edge (edgeWord (pair 3000 15 base) (-3000)) (-3000)) = .ok (.edEdge (-3000)) ∧ (pair 3000 15 base).cls.thValid = false) ∧
    (decode (.edge (edgeWord (pair 3000 15 ready) (-3000)) (-3000)) = .ok (.edEdge (-3000)) ∧ (pair 3000 15 ready).cls.thValid = true) ∧
    holds (exec (.sample 7) (pair 0 4294967295 base)) (fun t => t.run == .halt) = true ∧ (pair 0 4294967295 base).run ≠ .halt := by
  decide

/-- The invariants hold after reset under the small configurations. -/
theorem base_inv : Inv base where
  cfg_valid := by decide
  cal_le := by decide
  buf_length := by decide
  buf_fits := by decide
  buf_pos := fun i h => absurd h (Nat.not_lt_zero i)
  collecting := by decide
  loaded := by decide
  loaded_source := fun h => by cases h
  ordered := by decide
  no_symbol_yet := by decide
  acc_high_zero := fun i _ => by simp [base, State.resetWith, BlkRegs.reset]
  acc_empty_outside := by decide
  halt_iff_error := by decide
  prev_fits := by decide
  cnt_fits := by decide
  held_fits := by decide
  err_widths_fit := by decide
  pos_fits := by decide

theorem ready_inv : Inv ready where
  cfg_valid := by decide
  cal_le := by decide
  buf_length := by decide
  buf_fits := by decide
  buf_pos := fun i h => absurd h (Nat.not_lt_zero i)
  collecting := by decide
  loaded := by decide
  loaded_source := fun _ _ => by decide
  ordered := by decide
  no_symbol_yet := by decide
  acc_high_zero := fun i _ => by simp [ready, State.resetWith, BlkRegs.reset]
  acc_empty_outside := by decide
  halt_iff_error := by decide
  prev_fits := by decide
  cnt_fits := by decide
  held_fits := by decide
  err_widths_fit := by decide
  pos_fits := by decide

theorem witness_sample_inv : Inv (withSample 7 base) := { base_inv with }

theorem witness_step_next : holds (step (withSample 7 base)) (fun _ => true) = true := by decide

theorem witness_pulse_inv : PulseInv (withSample 7 base) := by
  refine ⟨by decide, by decide, by decide, by decide⟩

theorem witness_account : SampleAccount (withSample 7 base) := by
  refine ⟨by decide, by decide⟩

theorem witness_trace_inv : TraceInv (withSample 7 base) :=
  ⟨TracePhase.start cfg3, rfl, rfl, rfl, rfl, rfl⟩

/-- `P(w)` at both ends of the range of `w`. -/
theorem witness_macro_pulse : Inv (pair (-3000) 0 ready) ∧ (pair (-3000) 0 ready).run = .run ∧
    (pair (-3000) 0 ready).ed.havePrev = true ∧ (pair (-3000) 0 ready).ed.prev < 0 ∧ (pair (-3000) 0 ready).ed.cnt = 0 ∧
    (pair (-3000) 0 ready).cfg.edgeThreshold < 6000 ∧ (2 : Nat) < 2 ^ (pair (-3000) 0 ready).cfg.cntW ∧
    (4294967295 : Nat) < 2 ^ (pair (-3000) 0 ready).cfg.cntW :=
  ⟨{ ready_inv with prev_fits := by decide }, rfl, rfl, by decide, rfl, by decide, by decide, by decide⟩

/-- A buffer index at both ends. -/
theorem witness_collect : base.cal.calN < base.cal.calBuf.length ∧
    ({ base with cal := { calN := 2, calBuf := [16, 17, 0] } } : State).cal.calN < 3 := by decide

theorem witness_finish : cfg3.calRank < base.cal.calBuf.length ∧ Config.SourceConstants cfg3 :=
  ⟨by decide, ⟨rfl, rfl, rfl, rfl⟩⟩

/-- The least and the greatest rank of three widths. -/
theorem witness_rank : rankStatistic { calCount := 3, calRank := 0 } [9, 7, 8] = 7 ∧
    rankStatistic { calCount := 3, calRank := 2 } [9, 7, 8] = 9 ∧ List.Perm [7, 8, 9] [9, 7, 8] := by decide

theorem witness_thresholds_kept : (withSample 7 ready).cls.thValid = true ∧ (nextCycle (withSample 7 ready)).rst = false ∧
    holds (step (withSample 7 ready)) (fun _ => true) = true := by decide

theorem witness_calibrating : (pair 3000 15 base).cls.thValid = false ∧
    holds (exec (.sample (-3000)) (pair 3000 15 base)) (fun t => t.cal.calN == 1) = true := by decide

theorem witness_classifier : Inv ready ∧ ready.cls.thValid = true ∧ Config.SourceConstants ready.cfg :=
  ⟨ready_inv, rfl, ⟨rfl, rfl, rfl, rfl⟩⟩

/-- Widths on either side of a threshold. -/
theorem witness_monotone : (17 : Nat) < 18 ∧ decodeCls (clsWord ready 17) = some .short ∧
    decodeCls (clsWord ready 18) = some .medium := by decide

theorem witness_not_medium : SymCode.short ≠ .medium ∧ SymCode.long ≠ .medium ∧ SymCode.unknown ≠ .medium := by decide

/-- A bit at the first and the last stored place, the tenth, and one more. -/
theorem witness_bits : (block .read true .short 0 0 ready).bd.nbits.val < 9 ∧ (block .read true .short 0 8 ready).bd.nbits.val < 9 ∧
    (block .read true .short 0 9 ready).bd.nbits.val = 9 ∧ (block .read true .short 0 10 ready).bd.nbits.val = 10 := by decide

/-- A marker after eight, ten and nine bits, with both parities. -/
theorem witness_byte_marker : (block .read true .long 0 8 ready).bd.nbits.val < 9 ∧ (block .read true .long 0 10 ready).bd.nbits.val = 10 ∧
    (List.range 9).countP (fun i => (0b110000000#9).getLsbD i) % 2 = 0 ∧
    (List.range 9).countP (fun i => (0b100000000#9).getLsbD i) % 2 = 1 := by decide

/-- A pair that is no legal one. -/
theorem witness_bad_pair : (SymCode.unknown, SymCode.medium) ∉
    [(SymCode.short, SymCode.medium), (.medium, .short), (.long, .medium), (.long, .short)] := by decide

/-- One state for each row of the transition table. -/
theorem witness_transitions :
    holds (runBlock .short 0 ready) (fun t => t.bd.bdState == .seek) = true ∧
    holds (runBlock .long 0 ready) (fun t => t.bd.bdState == .expect) = true ∧
    holds (runBlock .medium 0 (block .expect false .short 0 0 ready)) (fun t => t.bd.bdState == .read) = true ∧
    holds (runBlock .long 0 (block .read false .short 0 0 ready)) (fun t => t.bd.ph) = true ∧
    holds (runBlock .medium 0 (block .read true .short 0 0 ready)) (fun t => !t.bd.ph) = true ∧
    holds (runBlock .medium 0 (block .read true .long 0b100000000#9 9 ready)) (fun t => t.trace == [.byte 0]) = true ∧
    holds (runBlock .short 0 (block .read true .long 0 0 ready)) (fun t => t.trace == [.blockEnd]) = true ∧
    holds (runBlock .short 0 (block .expect false .short 0 0 ready)) (fun t => t.run == .halt) = true ∧
    holds (runBlock .medium 0 (block .read true .long 0 9 ready)) (fun t => t.run == .halt) = true ∧
    holds (runBlock .short 0 (block .read true .unknown 0 0 ready)) (fun t => t.run == .halt) = true := by decide

theorem witness_round_trip : ready.run = .run ∧ ready.bd.bdState = .seek := ⟨rfl, rfl⟩

/-- Two states that differ in the held width only, or in the held symbol only. -/
theorem witness_erased :
    eraseWidths ready = eraseWidths { ready with bd := { ready.bd with hW := 40 } } ∧ ready.bd.ph = false ∧
    eraseHeld ready = eraseHeld { ready with bd := { ready.bd with hCode := .long, hW := 30 } } ∧
    holds (runBlock .long 0 ready) (fun _ => true) = true := by decide

/-- A halt from the edge detector and one from the block decoder. -/
theorem witness_halt : (withSample 7 (pair 0 4294967295 base)).run = .run ∧
    holds (step (withSample 7 (pair 0 4294967295 base))) (fun t => t.run == .halt) = true ∧
    holds (step (withSample (-3000) (pair 3000 15 (block .expect false .short 0 0 ready)))) (fun t => t.run == .halt) = true := by
  decide

theorem witness_no_fault : holds (exec .idle halted) (fun t => t.run == .halt) = true := by decide

theorem witness_halt_lasts : halted.cfg.Valid ∧ halted.run = .halt ∧ (nextCycle halted).rst = false ∧
    (nextCycle (withCycle true false 0 false halted)).rst = true := by decide

/-- One operation of each unit, and a trap of the block decoder. -/
theorem witness_units : (encode (.edCount 1)).tag = .edge ∧ (encode (.calCollect 1)).tag = .cal ∧ (encode (.pcShort 1)).tag = .cls ∧
    (encode .bdBit0).tag = .blk ∧ holds (exec .bdByteEnd ready) (fun t => t.run != ready.run) = true ∧
    holds (exec (.edCount 1) base) (fun _ => true) = true ∧ holds (exec (.calCollect 1) base) (fun _ => true) = true ∧
    holds (exec (.pcShort 1) ready) (fun _ => true) = true := by decide

/-- An edge with an event of each kind but `FATAL`. -/
theorem witness_events : (nextCycle (withCycle false true (-3000) true (pair 3000 21 (block .expect false .short 0 0 ready)))).rst = false ∧
    holds (step (withCycle false true (-3000) true (pair 3000 21 (block .expect false .short 0 0 ready))))
      (fun t => t.out == [.pulse 22, .sym .medium 22, .blockStart, .done ⟨true, 0, .read, false, 0, true⟩]) = true := by decide

/-- A sample that is accepted, and none. -/
theorem witness_position : ((nextCycle (withSample 7 base)).sampleValid = true ∧ (withSample 7 base).run = .run) ∧
    ¬ ((nextCycle base).sampleValid = true ∧ base.run = .run) ∧ (nextCycle base).rst = false := by decide

/-- A step that closes a block. -/
theorem witness_closed_block : holds (step (withSample (-3000) (pair 3000 15
      { block .read true .long 0 0 ready with trace := [.blockStart, .byte 9] })))
    (fun t => blocks t.trace == [[9]]) = true := by decide

theorem witness_reachable : Reachable (State.resetWith cfg3) := .reset cfg3 (by decide)

theorem witness_well_formed : (Instr.sample (-32768)).wf Config.default = true ∧ (Instr.pcLong 4294967295).wf Config.default = true ∧
    (Instr.bdBadPair .medium 0).wf Config.default = true := by decide

end Sys2Proof.Tests
end

section
/-! SUPPORT. The decoder read through the operation maps of the five units, the reserved words, and the combinational conditions of
spec/30_encoding.md R91 and R92 as propositions. -/

namespace Sys2Proof.Machine

/-- A top-level word the map R90 covers decodes to its operation. -/
theorem decode_top {t : BitVec 5} {o : TopOp} (h : decodeTop t = some o) (v : Sample) :
    decode (.top t v) = .ok (o.instr v) := by
  simp only [decode, h]

/-- A top-level word the map R90 leaves out is rejected by name. -/
theorem decode_top_reserved {t : BitVec 5} (h : decodeTop t = none) (v : Sample) :
    decode (.top t v) = .error (.topReserved t) := by
  simp only [decode, h]

/-- An edge detector word decodes to the operation of the map R91. -/
theorem decode_edge {e : BitVec 5} {o : EdOp} (h : decodeEdge e = some o) (v : Sample) :
    decode (.edge e v) = .ok (o.instr v) := by
  simp only [decode, h]

/-- A calibrator word decodes to the operation of the map R92. -/
theorem decode_cal {c : BitVec 1} {o : CalOp} (h : decodeCal c = some o) (w : Width) :
    decode (.cal c w) = .ok (o.instr w) := by
  simp only [decode, h]

/-- A block decoder word the map R94 covers decodes to its operation, for the symbol in its low bits. -/
theorem decode_blk {b : BitVec 7} {o : BdOp} (h : decodeBlk b = some o) (w : Width) :
    decode (.blk b w) = .ok (o.instr (blkWordSym b) w) := by
  simp only [decode, h]

/-- A block decoder word the map R94 leaves out is rejected by name. -/
theorem decode_blk_reserved {b : BitVec 7} (h : decodeBlk b = none) (w : Width) :
    decode (.blk b w) = .error (.blkReserved b) := by
  simp only [decode, h]

/-- The last row of R90: an input without `rst` selects nothing where `run` holds its reserved code. -/
theorem decodeTop_reservedRun : ∀ sv eos : Bool, (sv = true ∨ eos = true) →
    decodeTop (0b0#1 ++ BitVec.ofBool sv ++ BitVec.ofBool eos ++ 0b11#2) = none := by
  decide

/-- The last row of R94: no symbol selects anything where `bd_state` holds its reserved code. -/
theorem decodeBlk_reservedState : ∀ x : BitVec 5, decodeBlk (0b11#2 ++ x) = none := by
  decide

/-- R91: the counter is at its maximum. -/
@[simp] theorem cntMax_iff (s : State) : cntMax s = true ↔ s.ed.cnt = 2 ^ s.cfg.cntW - 1 := beq_iff_eq

/-- R111: the qualifying falling edge predicate, its comparison with the threshold strict. -/
@[simp] theorem qualifies_iff (g : Config) (a b : Sample) :
    qualifies g a b = true ↔ a - b > g.edgeThreshold ∧ 0 ≤ a ∧ b < 0 := by
  simp [qualifies, dropExceeds, nonNeg, isNeg, and_assoc]

/-- R92: the coming width is the last one of the buffer. -/
@[simp] theorem calLast_iff (s : State) : calLast s = true ↔ s.cal.calN = s.cfg.calCount - 1 := beq_iff_eq

end Sys2Proof.Machine
end

section
/-! Which operation the inputs and the state select, unit by unit (spec/30_encoding.md R90 to R92, R94). -/

namespace Sys2Proof.Machine

/-- Settles O4: the map R90 read from its fields, and its reserved row. -/
theorem topLevelSelection : Obligations.TopLevelSelection := by
  unfold Obligations.TopLevelSelection
  refine ⟨fun c r v => ?_, fun a b v h => decode_top_reserved (decodeTop_reservedRun a b h) v⟩
  rw [decode_top (decodeTop_bits c.rst c.sampleValid c.eos r)]
  simp only [Bool.and_eq_true, Bool.not_eq_true']
  split_ifs <;> rfl

/-- Settles O11: the map R91 read from the registers and the sample, with the overflow before the edge. -/
theorem edgeDetectorSelection : Obligations.EdgeDetectorSelection := by
  unfold Obligations.EdgeDetectorSelection
  refine ⟨fun _ _ => rfl, fun s v => ?_⟩
  rw [decode_edge (decodeEdge_edgeWord s v)]
  simp only [cntMax_iff, qualifies_iff]
  split_ifs <;> rfl

/-- Settles O30: the map R94 read from the registers and the symbol, and its reserved row. -/
theorem blockDecoderSelection : Obligations.BlockDecoderSelection := by
  unfold Obligations.BlockDecoderSelection
  refine ⟨fun _ _ => rfl, fun s c w => ?_, fun x w => decode_blk_reserved (decodeBlk_reservedState x) w⟩
  rw [decode_blk (decodeBlk_blockWord s c), blkWordSym_blockWord]
  cases s.bd.bdState with
  | seek | expect | read =>
    simp only [blockOp]
    split_ifs <;> rfl

/-- Settles O19: the map R92, and its word read from the count of widths collected. -/
theorem calibratorSelection : Obligations.CalibratorSelection := by
  unfold Obligations.CalibratorSelection
  refine ⟨fun _ => ⟨rfl, rfl⟩, fun s w => ?_⟩
  rw [decode_cal (decodeCal_calWord s)]
  simp only [calLast_iff]
  split_ifs <;> rfl

end Sys2Proof.Machine
end

section
/-! SUPPORT. The edge detector's rows of spec/30_encoding.md R91 with their `x` positions, the decoder's answer for an edge detector
word read back, and what a width leaves alone on its way through the calibrator or the classifier (spec/44_top_level.md R191). -/

namespace Sys2Proof.Machine

/-- R91, row `0xxxx`: without a previous sample nothing else decides. -/
theorem decodeEdge_noPrev : ∀ x : BitVec 4, decodeEdge (0b0#1 ++ x) = some .prime := by
  decide

/-- R91, row `1xxx1`: a full counter decides before the pair does (R116). -/
theorem decodeEdge_cntMax : ∀ x : BitVec 3, decodeEdge (0b1#1 ++ x ++ 0b1#1) = some .ovf := by
  decide

/-- R91, row `10xx0`: a drop not above the threshold is no edge. -/
theorem decodeEdge_smallDrop : ∀ x : BitVec 2, decodeEdge (0b10#2 ++ x ++ 0b0#1) = some .count := by
  decide

/-- R91, row `110x0`: a fall from a negative sample is no edge. -/
theorem decodeEdge_negativeStart : ∀ y : BitVec 1, decodeEdge (0b110#3 ++ y ++ 0b0#1) = some .count := by
  decide

/-- R91, row `11100`: a fall that stays at or above zero is no edge. -/
theorem decodeEdge_noCrossing : decodeEdge 0b11100#5 = some .count := by
  decide

/-- R91, row `11110`: a large fall through zero below a full counter is an edge. -/
theorem decodeEdge_qualifying : decodeEdge 0b11110#5 = some .edge := by
  decide

/-- Different operations of the edge detector give different instructions. -/
theorem edOp_instr_inj {o o' : EdOp} {v : Sample} : o.instr v = o'.instr v ↔ o = o' := by
  cases o <;> cases o' <;> simp [EdOp.instr]

/-- The instruction an edge detector word decodes to determines the operation of the map R91. -/
theorem decode_edge_iff {e : BitVec 5} {o : EdOp} {v : Sample} :
    decode (.edge e v) = .ok (o.instr v) ↔ decodeEdge e = some o := by
  cases he : decodeEdge e with
  | none => simp [decode, he]
  | some o' => simp [decode_edge he, edOp_instr_inj]

/-- A word that selects `ED.EDGE` sends the width on from the state after the edge (R191, steps 1 and 2). -/
theorem runEdge_of_edge {v : Sample} {s : State} (h : decodeEdge (edgeWord s v) = some .edge) :
    runEdge v s = runWidth (edgeWidth s) (afterEdge v s) := by
  unfold runEdge
  rw [h]
  rfl

/-- What a width leaves alone, whether it is collected, completes the calibration or is classified. -/
theorem runWidth_frame {w : Width} {s t : State} (h : runWidth w s = .next t) :
    t.ed = s.ed ∧ t.pos = s.pos ∧ t.cfg = s.cfg ∧ t.stim = s.stim := by
  unfold runWidth at h
  rw [runCls_eq, runCal_eq] at h
  split_ifs at h
  · obtain ⟨hed, -, -, hpos, hcfg, hstim, -⟩ := runBlock_frame h
    exact ⟨hed, hpos, hcfg, hstim⟩
  · cases h
    exact ⟨rfl, rfl, rfl, rfl⟩
  · cases h
    exact ⟨rfl, rfl, rfl, rfl⟩

/-- A sample that is an edge: its width's way downstream, then the position (R114, R191). -/
theorem execSample_of_edge {v : Sample} {s u : State} (h : decodeEdge (edgeWord s v) = some .edge)
    (hu : runWidth (edgeWidth s) (afterEdge v s) = .next u) :
    execSample v s = .next { u with pos := (s.pos + 1) % 2 ^ s.cfg.posW } := by
  obtain ⟨-, hpos, hcfg, -⟩ := runWidth_frame hu
  have hbump : bumpPos u = { u with pos := (s.pos + 1) % 2 ^ s.cfg.posW } := by
    unfold bumpPos
    rw [hpos, hcfg]
    rfl
  rw [execSample_eq ((runEdge_of_edge h).trans hu), hbump]

end Sys2Proof.Machine
end

section
/-! What each operation of the edge detector does and leaves alone (spec/40_edge_detector.md R112 to R115). -/

namespace Sys2Proof.Machine

/-- Settles O12: the row `0xxxx`, and the record `ED.PRIME` leaves, in which only `have_prev` and `prev` are written. -/
theorem primeStoresTheFirstSample : Obligations.PrimeStoresTheFirstSample := by
  unfold Obligations.PrimeStoresTheFirstSample
  exact ⟨fun x => decode_edge (decodeEdge_noPrev x), fun _ _ => rfl⟩

/-- Settles O13: the three rows of `ED.COUNT`, and the record it leaves. -/
theorem countExaminesOnePair : Obligations.CountExaminesOnePair := by
  unfold Obligations.CountExaminesOnePair
  refine ⟨fun x y v => ⟨?_, ?_, ?_⟩, fun _ _ => rfl⟩
  · exact decode_edge (decodeEdge_smallDrop x) v
  · exact decode_edge (decodeEdge_negativeStart y) v
  · exact decode_edge decodeEdge_noCrossing v

/-- Settles O14: the record `ED.EDGE` leaves is the state after the edge, from which every width goes on to a next state. -/
theorem edgeEmitsTheWidthAndRestartsTheCounter : Obligations.EdgeEmitsTheWidthAndRestartsTheCounter := by
  unfold Obligations.EdgeEmitsTheWidthAndRestartsTheCounter
  refine ⟨decode_edge decodeEdge_qualifying, fun s v => ⟨rfl, fun h => ?_⟩⟩
  have hw : decodeEdge (edgeWord s v) = some .edge := decode_edge_iff.mp h
  obtain ⟨u, hu⟩ := runWidth_next (edgeWidth s) (afterEdge v s)
  exact ⟨afterEdge v s, u, rfl, hu, execSample_of_edge hw hu⟩

/-- Settles O15: the row `1xxx1`, and the trap entry of R215 with no detail but the position. -/
theorem counterOverflowHalts : Obligations.CounterOverflowHalts := by
  unfold Obligations.CounterOverflowHalts
  exact ⟨fun x => decode_edge (decodeEdge_cntMax x), fun _ _ => rfl⟩

end Sys2Proof.Machine
end

section
/-! SUPPORT. What a clock edge without `rst` can do (spec/30_encoding.md R90), what it leaves of the calibrator and the thresholds
once they are loaded (spec/41_leader_calibrator.md R134), and the states the calibrator's two operations answer (R131, R132). -/

namespace Sys2Proof.Machine

/-- Everything a clock edge without `rst` can do (R90), with the conditions of each case. -/
inductive ClockStep (s t : State) : Prop where
  | unchanged (hc : ((nextCycle s).sampleValid = false ∧ (nextCycle s).eos = false) ∨ s.run ≠ .run) (e : t = advance s)
  | eos (hr : s.run = .run) (hv : (nextCycle s).sampleValid = false) (he : (nextCycle s).eos = true)
      (e : execEos (advance s) = .next t)
  | sample (hr : s.run = .run) (hv : (nextCycle s).sampleValid = true) (he : (nextCycle s).eos = false)
      (e : execSample (portSample s.cfg (nextCycle s).sample) (advance s) = .next t)
  | sampleEos (hr : s.run = .run) (hv : (nextCycle s).sampleValid = true) (he : (nextCycle s).eos = true)
      (e : execSampleEos (portSample s.cfg (nextCycle s).sample) (advance s) = .next t)

/-- A step without `rst` does one of those. -/
theorem step_cases_of_not_rst {s t : State} (hrst : (nextCycle s).rst = false) (h : step s = .next t) : ClockStep s t := by
  obtain ⟨-, h⟩ := step_cases h
  simp only [edgeInstr, hrst, Bool.false_eq_true, if_false] at h
  split_ifs at h with hquiet hrun hvalid heos
  · cases h; exact .unchanged (.inl (by simpa using hquiet)) rfl
  · cases h; exact .unchanged (.inr hrun) rfl
  · have hv : (nextCycle s).sampleValid = false := by simpa using hvalid
    exact .eos (not_not.mp hrun) hv (by simpa [hv] using hquiet) h
  · exact .sampleEos (not_not.mp hrun) (by simpa using hvalid) heos h
  · exact .sample (not_not.mp hrun) (by simpa using hvalid) (by simpa using heos) h

/-- With the thresholds loaded, a sample selects no calibrator operation and writes no threshold (R134, R135). -/
theorem execSample_keeps_calibration {v : Sample} {s t : State} (hl : s.cls.thValid = true)
    (h : execSample v s = .next t) : t.cls = s.cls ∧ t.cal = s.cal := by
  obtain ⟨u, hu, rfl⟩ := execSample_cases h
  simp only [bumpPos_cls, bumpPos_cal]
  cases runEdge_cases hu with
  | prime _ e | ovf _ _ e | count _ _ _ e => subst e; exact ⟨rfl, rfl⟩
  | collect _ _ _ ht | finish _ _ _ ht => simp [hl] at ht
  | cls _ _ _ _ e =>
    obtain ⟨-, hcal, hcls, -⟩ := runBlock_frame e
    exact ⟨hcls, hcal⟩

/-- `EOS` leaves the calibrator and the thresholds alone (R192). -/
theorem execEos_keeps_calibration {s t : State} (h : execEos s = .next t) : t.cls = s.cls ∧ t.cal = s.cal := by
  cases h
  exact ⟨rfl, rfl⟩

/-- With the thresholds loaded, a sample at the end of the stream does neither (R134, R196). -/
theorem execSampleEos_keeps_calibration {v : Sample} {s t : State} (hl : s.cls.thValid = true)
    (h : execSampleEos v s = .next t) : t.cls = s.cls ∧ t.cal = s.cal := by
  obtain ⟨u, hu, ⟨-, he⟩ | ⟨-, rfl⟩⟩ := execSampleEos_cases h
  · obtain ⟨hcls, hcal⟩ := execEos_keeps_calibration he
    obtain ⟨hcls', hcal'⟩ := execSample_keeps_calibration hl hu
    exact ⟨hcls.trans hcls', hcal.trans hcal'⟩
  · exact execSample_keeps_calibration hl hu

/-- The state `CAL.COLLECT` answers (R131). -/
theorem exec_calCollect (w : Width) (s : State) :
    exec (.calCollect w) s = .next (setCalN (s.cal.calN + 1) (memWrite s.cal.calN w s)) := rfl

/-- The reference width `CAL.FINISH` loads: the rank statistic over the completed buffer (R132). -/
def calReference (w : Width) (s : State) : Width := rankStatistic s.cfg (calComplete w s).cal.calBuf

/-- The state `CAL.FINISH` answers (R132). -/
theorem exec_calFinish (w : Width) (s : State) :
    exec (.calFinish w) s =
      .next (emit (.calDone (calReference w s)) (loadThresholds (calReference w s) (calComplete w s))) := rfl

/-- The rank statistic is the element of 0-based rank `CAL_RANK` of the sorted buffer (R133, conflict C1). -/
theorem sortAsc_getElem?_calRank {g : Config} {buf : List Width} (h : g.calRank < buf.length) :
    (sortAsc buf)[g.calRank]? = some (rankStatistic g buf) := by
  have hlen : g.calRank < (sortAsc buf).length := by rwa [(sortAsc_perm buf).length_eq]
  simp [rankStatistic, hlen]

end Sys2Proof.Machine
end

section
/-! The leader calibrator: what its operations do and leave alone (spec/41_leader_calibrator.md R131 to R133), and that nothing but a
reset changes what it has loaded (R134). -/

namespace Sys2Proof.Machine

/-- Settles O23: of the operations a clock edge without `rst` can select, none reaches the calibrator while `th_valid = 1`. -/
theorem thresholdsNeverChangeOnceLoaded : Obligations.ThresholdsNeverChangeOnceLoaded := by
  unfold Obligations.ThresholdsNeverChangeOnceLoaded
  intro s t hl hrst h
  cases step_cases_of_not_rst hrst h with
  | unchanged _ e => subst e; exact ⟨rfl, rfl⟩
  | eos _ _ _ e => exact execEos_keeps_calibration (s := advance s) e
  | sample _ _ _ e => exact execSample_keeps_calibration (s := advance s) hl e
  | sampleEos _ _ _ e => exact execSampleEos_keeps_calibration (s := advance s) hl e

/-- Settles O20: the row of R92, and the one write of R131 read back by the buffer's rules. -/
theorem collectStoresTheWidth : Obligations.CollectStoresTheWidth := by
  unfold Obligations.CollectStoresTheWidth
  refine ⟨fun w => (calibratorSelection.1 w).1, fun s w hn => ⟨_, exec_calCollect w s, rfl, ?_, fun i hi => ?_, ?_, ?_⟩⟩
  · rw [memRead_setCalN, memRead_memWrite_same hn]
  · rw [memRead_setCalN, memRead_memWrite_other hi]
  · exact memWrite_length _ _ _
  · simp

/-- Settles O21: the row of R92; the sorted buffer, the last width included, gives the reference width and with it the thresholds. -/
theorem finishLoadsTheThresholds : Obligations.FinishLoadsTheThresholds := by
  unfold Obligations.FinishLoadsTheThresholds
  refine ⟨fun w => (calibratorSelection.1 w).2, fun s w hrank hn => ?_⟩
  have hbuf : s.cfg.calRank < (calComplete w s).cal.calBuf.length := by simpa [calComplete] using hrank
  refine ⟨_, _, calReference w s, exec_calFinish w s, rfl, memRead_memWrite_same hn, fun i hi => memRead_memWrite_other hi,
    sortAsc_perm _, sortAsc_ordered _, sortAsc_getElem?_calRank hbuf, rfl, ?_, ?_⟩
  · rintro ⟨hS, hM, hL, -⟩
    simp [calComplete, hS, hM, hL]
  · simp [calComplete]

end Sys2Proof.Machine
end

section
/-! SUPPORT. The classifier's rows of spec/30_encoding.md R93 with their `x` positions, its operation against the symbol code a width
is classified as, and the state each of its operations answers (spec/42_pulse_classifier.md R148 to R151). -/

namespace Sys2Proof.Machine

/-- A classifier word decodes to the operation of the map R93. -/
theorem decode_cls {p : BitVec 3} {o : PcOp} (h : decodeCls p = some o) (w : Width) :
    decode (.cls p w) = .ok (o.instr w) := by
  simp only [decode, h]

/-- R93, row `1xx`: below the first threshold nothing else decides. -/
theorem decodeCls_belowShort : ∀ x : BitVec 2, decodeCls (0b1#1 ++ x) = some .short := by
  decide

/-- R93, row `01x`: below the second threshold the third does not decide. -/
theorem decodeCls_belowMedium : ∀ y : BitVec 1, decodeCls (0b01#2 ++ y) = some .medium := by
  decide

/-- R93, row `001`: below the third threshold only. -/
theorem decodeCls_belowLong : decodeCls 0b001#3 = some .long := by
  decide

/-- R93, row `000`: below no threshold. -/
theorem decodeCls_belowNone : decodeCls 0b000#3 = some .unknown := by
  decide

/-- The operation the classifier's word selects is one whose result code (R93, third column) is the width's class. -/
theorem decodeCls_clsWord_code (s : State) (w : Width) :
    ∃ o : PcOp, decodeCls (clsWord s w) = some o ∧ o.code = classOf s w := by
  refine ⟨_, decodeCls_clsWord s w, ?_⟩
  unfold classOf
  split_ifs <;> rfl

/-- The state a classifier operation answers: its symbol emitted with the width (R148 to R151). -/
theorem exec_pcOp (o : PcOp) (w : Width) (s : State) : exec (o.instr w) s = .next (emit (.sym o.code w) s) := by
  cases o <;> rfl

end Sys2Proof.Machine
end

section
/-! The pulse classifier: what its operations do and leave alone (spec/42_pulse_classifier.md R148 to R151). -/

namespace Sys2Proof.Machine

/-- Settles O25: the rows of R93, and the one event each operation emits; the operation the word selects has the width's class as its
code, which is the symbol the block decoder receives. -/
theorem classifierOperationsEmitTheSymbol : Obligations.ClassifierOperationsEmitTheSymbol := by
  unfold Obligations.ClassifierOperationsEmitTheSymbol
  refine ⟨fun x y w => ⟨?_, ?_, ?_, ?_⟩, fun s w => ?_, fun s w => ⟨?_, ?_, ?_, ?_⟩⟩
  · exact decode_cls (decodeCls_belowShort x) w
  · exact decode_cls (decodeCls_belowMedium y) w
  · exact decode_cls decodeCls_belowLong w
  · exact decode_cls decodeCls_belowNone w
  · obtain ⟨o, hsel, hcode⟩ := decodeCls_clsWord_code s w
    refine ⟨o.instr w, o.code, emit (.sym o.code w) s, decode_cls hsel w, exec_pcOp o w s, emit_out _ _, ?_⟩
    rw [hcode]
    exact runCls_eq w s
  · exact exec_pcOp .short w s
  · exact exec_pcOp .medium w s
  · exact exec_pcOp .long w s
  · exact exec_pcOp .unknown w s

end Sys2Proof.Machine
end

section
/-! SUPPORT. The block decoder's rows of spec/30_encoding.md R94 with their `x` positions, the bits of the accumulator after an append
(spec/43_block_decoder.md R168), the parity predicate as a count of ones (R170), and the state each answer of the byte marker is
(R169). -/

namespace Sys2Proof.Machine

/-- The symbol of a block decoder word is in its low bits, whatever stands above them (R94). -/
theorem blkWordSym_append (x : BitVec 5) (c : SymCode) : blkWordSym (x ++ c.bits) = c := by
  unfold blkWordSym
  rw [BitVec.extractLsb'_append_eq_right]
  cases c <;> rfl

/-- A block decoder word with the symbol `c` in its low bits decodes to the operation of the map R94 with that symbol. -/
theorem decode_blk_append {x : BitVec 5} {c : SymCode} {o : BdOp} (h : decodeBlk (x ++ c.bits) = some o) (w : Width) :
    decode (.blk (x ++ c.bits) w) = .ok (o.instr c w) := by
  rw [decode_blk h, blkWordSym_append]

/-- R94, rows `00xxxcc`: in the search for a leader neither the phase nor the held symbol decides. -/
theorem decodeBlk_seek (c : SymCode) : ∀ x : BitVec 3,
    decodeBlk (0b00#2 ++ x ++ c.bits) = some (if c = .long then .foundLong else .skip) := by
  cases c <;> decide

/-- R94, rows `01xxxcc`: nor do they where the start marker is expected. -/
theorem decodeBlk_expect (c : SymCode) : ∀ x : BitVec 3,
    decodeBlk (0b01#2 ++ x ++ c.bits) = some (if c = .medium then .start else .errExpectedM) := by
  cases c <;> decide

/-- R94, row `100xxxx`: the first symbol of a pair is latched whatever it is. -/
theorem decodeBlk_firstOfPair (c : SymCode) : ∀ x : BitVec 2, decodeBlk (0b100#3 ++ x ++ c.bits) = some .latch := by
  cases c <;> decide

/-- R94, rows `101aacc`: the second symbol of a pair decides together with the first. -/
theorem decode_pair (a c : SymCode) (w : Width) :
    decode (.blk (0b101#3 ++ a.bits ++ c.bits) w) = .ok ((blockOp .read true a c).instr c w) :=
  decode_blk_append (decodeBlk_bits .read true a c) w

/-- A pair that is none of the two bits and the two markers is illegal (R173). -/
theorem blockOp_illegalPair {a c : SymCode}
    (h : (a, c) ∉ [(SymCode.short, SymCode.medium), (.medium, .short), (.long, .medium), (.long, .short)]) :
    blockOp .read true a c = .badPair := by
  simp only [List.mem_cons, Prod.mk.injEq, List.not_mem_nil, or_false, not_or] at h
  obtain ⟨hbit0, hbit1, hbyteEnd, hdataEnd⟩ := h
  simp [blockOp, hbit0, hbit1, hbyteEnd, hdataEnd]

/-- An append is counted, up to ten (spec/10_state.md R34). -/
theorem appendBit_nbits_val (bit : Bool) (s : State) :
    (appendBit bit s).bd.nbits.val = min (s.bd.nbits.val + 1) 10 := rfl

/-- With fewer than nine bits stored, the bit appended goes to the next place and the others stay (R168). -/
theorem getLsbD_appendBit {s : State} {i : Nat} (bit : Bool) (hn : s.bd.nbits.val < 9) (hi : i < 9) :
    (appendBit bit s).bd.acc.getLsbD i = if i = s.bd.nbits.val then bit else s.bd.acc.getLsbD i := by
  rw [appendBit_bd, if_pos hn]
  simpa using getLsbD_setAccBit ⟨s.bd.nbits.val, hn⟩ ⟨i, hi⟩ bit s.bd.acc

/-- With nine bits stored, no further bit is (R168). -/
theorem appendBit_acc_of_full {s : State} (bit : Bool) (hn : 9 ≤ s.bd.nbits.val) :
    (appendBit bit s).bd.acc = s.bd.acc := by
  rw [appendBit_bd, if_neg (by omega)]

/-- The state `BD.BIT0` and `BD.BIT1` answer (R166, R167). -/
theorem exec_bdBit (bit : Bool) (s : State) :
    exec (if bit then .bdBit1 else .bdBit0) s = .next (setPh false (appendBit bit s)) := by
  cases bit <;> rfl

/-- Adding up bits counts the ones among them. -/
theorem sum_map_toNat (p : Nat → Bool) (l : List Nat) : (l.map fun i => (p i).toNat).sum = l.countP p := by
  induction l with
  | nil => rfl
  | cons i l ih => cases h : p i <;> simp [ih, h, Nat.add_comm]

/-- R170: the parity holds when the ones among the nine bits are odd in number. -/
theorem parOk_iff (a : Acc) : parOk a = true ↔ (List.range 9).countP (fun i => a.getLsbD i) % 2 = 1 := by
  rw [parOk, popcount, sum_map_toNat, beq_iff_eq]

/-- Bit `i` of the byte of an accumulator is the `i`-th bit received (R171). -/
theorem getLsbD_accByte (a : Acc) {i : Nat} (hi : i < 8) : (accByte a).getLsbD i = a.getLsbD i := by
  simp [accByte, hi]

/-- Too few bits at the byte marker (R207). -/
theorem exec_bdByteEnd_of_few {s : State} (hn : s.bd.nbits.val < 9) :
    exec .bdByteEnd s = .next (raiseFatal .shortByte { n := BitVec.ofNat 4 s.bd.nbits.val } s) :=
  if_pos hn

/-- Too many bits at the byte marker (R210). -/
theorem exec_bdByteEnd_of_many {s : State} (hn : s.bd.nbits.val = 10) :
    exec .bdByteEnd s = .next (raiseFatal .longByte { n := 10 } s) := by
  simp [exec, execBdByteEnd, hn]

/-- Nine bits of even parity at the byte marker (R208). -/
theorem exec_bdByteEnd_of_parity_even {s : State} (hn : s.bd.nbits.val = 9) (hp : parOk s.bd.acc = false) :
    exec .bdByteEnd s = .next (raiseFatal .parity { acc := s.bd.acc } s) := by
  simp [exec, execBdByteEnd, hn, hp]

/-- Nine bits of odd parity at the byte marker (R169, R175). -/
theorem exec_bdByteEnd_of_parity_odd {s : State} (hn : s.bd.nbits.val = 9) (hp : parOk s.bd.acc = true) :
    exec .bdByteEnd s = .next (setPh false (clearAcc (emit (.byte (accByte s.bd.acc)) s))) := by
  simp [exec, execBdByteEnd, hn, hp]

end Sys2Proof.Machine
end

section
/-! The block decoder: what its operations do and leave alone, each with its rows of the map (spec/43_block_decoder.md R161 to
R173). -/

namespace Sys2Proof.Machine

/-- Settles O36: the row of R94, and the byte marker's four answers, the parity read as a count of ones. -/
theorem byteMarkerChecksAndEmits : Obligations.ByteMarkerChecksAndEmits := by
  unfold Obligations.ByteMarkerChecksAndEmits
  refine ⟨decode_pair .long .medium, fun s => ⟨exec_bdByteEnd_of_few, exec_bdByteEnd_of_many, fun hn heven => ?_,
    fun hn hodd => ?_⟩⟩
  · have hp : parOk s.bd.acc = false := by
      rw [← Bool.not_eq_true, parOk_iff]
      omega
    exact exec_bdByteEnd_of_parity_even hn hp
  · exact ⟨accByte s.bd.acc, fun i => getLsbD_accByte s.bd.acc,
      exec_bdByteEnd_of_parity_odd hn ((parOk_iff s.bd.acc).mpr hodd)⟩

/-- Settles O31: the rows `00xxxcc`; of the two operations only `BD.FOUND_LONG` writes, and only `bd_state`. -/
theorem skipAndFoundLong : Obligations.SkipAndFoundLong := by
  unfold Obligations.SkipAndFoundLong
  refine ⟨fun x c w => ?_, fun _ _ => ⟨rfl, rfl⟩⟩
  rw [decode_blk_append (decodeBlk_seek c x)]
  split_ifs <;> rfl

/-- Settles O32: the row `01xxx01`, and the record `BD.START` leaves. -/
theorem startOpensABlock : Obligations.StartOpensABlock := by
  unfold Obligations.StartOpensABlock
  exact ⟨fun x w => decode_blk_append (decodeBlk_expect .medium x) w, fun _ => rfl⟩

/-- Settles O33: the rows `01xxxcc` without `Medium`, and the trap entry of R215 with the symbol as its second one. -/
theorem missingStartMarkerHalts : Obligations.MissingStartMarkerHalts := by
  unfold Obligations.MissingStartMarkerHalts
  refine ⟨fun x c w hc => ?_, fun _ _ _ => rfl⟩
  rw [decode_blk_append (decodeBlk_expect c x), if_neg hc]
  rfl

/-- Settles O34: the row `100xxxx`, and the record `BD.LATCH` leaves. -/
theorem latchHoldsTheFirstSymbol : Obligations.LatchHoldsTheFirstSymbol := by
  unfold Obligations.LatchHoldsTheFirstSymbol
  exact ⟨fun x c w => decode_blk_append (decodeBlk_firstOfPair c x) w, fun _ _ _ => rfl⟩

/-- Settles O35: the rows of the two bits; the place of the bit appended is below nine, or the accumulator stands. -/
theorem bitsAreAppendedInOrder : Obligations.BitsAreAppendedInOrder := by
  unfold Obligations.BitsAreAppendedInOrder
  refine ⟨fun w => ⟨decode_pair .short .medium w, decode_pair .medium .short w⟩, fun s bit => ?_⟩
  have hcount : (setPh false (appendBit bit s)).bd.nbits.val = min (s.bd.nbits.val + 1) 10 := appendBit_nbits_val bit s
  refine ⟨_, exec_bdBit bit s, rfl, fun hn => ⟨?_, fun i => getLsbD_appendBit bit hn⟩, fun hn => ⟨?_, ?_⟩, fun hn => ⟨?_, ?_⟩, ?_⟩
  · omega
  · omega
  · exact appendBit_acc_of_full bit (by omega)
  · omega
  · exact appendBit_acc_of_full bit (by omega)
  · simp

/-- Settles O37: the row `1011000`, and the record `BD.DATA_END` leaves, which the number of bits does not decide. -/
theorem dataEndClosesTheBlock : Obligations.DataEndClosesTheBlock := by
  unfold Obligations.DataEndClosesTheBlock
  exact ⟨decode_pair .long .short, fun _ => rfl⟩

/-- Settles O38: the twelve rows of `BD.BAD_PAIR`, and the trap entry of R215 with both symbols of the pair. -/
theorem badPairHalts : Obligations.BadPairHalts := by
  unfold Obligations.BadPairHalts
  refine ⟨fun a c w h => ?_, fun _ _ _ => rfl⟩
  rw [decode_pair, blockOp_illegalPair h]
  rfl

end Sys2Proof.Machine
end

section
/-! SUPPORT. The top level's rows of spec/30_encoding.md R90 with their `x` positions, the operation of a clock edge after the session
has ended (spec/44_top_level.md R195), `SAMPLE` and `SAMPLE_EOS` as what their parts answer (R191, R196), and each unit's part of a
sample as the operation its selection word decodes to. -/

namespace Sys2Proof.Machine

/-- R90, row `01000`. -/
theorem decodeTop_sample : decodeTop 0b01000#5 = some .sample := by
  decide

/-- R90, row `01100`. -/
theorem decodeTop_sampleEos : decodeTop 0b01100#5 = some .sampleEos := by
  decide

/-- R90, row `00100`. -/
theorem decodeTop_eos : decodeTop 0b00100#5 = some .eos := by
  decide

/-- R90, row `01x01`: a sample in `DONE` is ignored, with or without the end of stream. -/
theorem decodeTop_sampleInDone : ∀ x : BitVec 1, decodeTop (0b01#2 ++ x ++ 0b01#2) = some .ignore := by
  decide

/-- R90, row `01x10`: a sample in `HALT` is ignored, with or without the end of stream. -/
theorem decodeTop_sampleInHalt : ∀ x : BitVec 1, decodeTop (0b01#2 ++ x ++ 0b10#2) = some .ignore := by
  decide

/-- R90, row `00101`: the end of stream in `DONE` is ignored. -/
theorem decodeTop_eosInDone : decodeTop 0b00101#5 = some .ignore := by
  decide

/-- R90, row `00110`: the end of stream in `HALT` is ignored. -/
theorem decodeTop_eosInHalt : decodeTop 0b00110#5 = some .ignore := by
  decide

/-- The operation of a clock edge with an input but `rst` where the machine does not run (R195). -/
theorem edgeInstr_eq_ignore {s : State} (hrun : s.run ≠ .run) (hrst : (nextCycle s).rst = false)
    (hin : (nextCycle s).sampleValid = true ∨ (nextCycle s).eos = true) : edgeInstr s = .ignore := by
  have hactive : ¬ ((!(nextCycle s).sampleValid && !(nextCycle s).eos) = true) := by
    rcases hin with h | h <;> simp [h]
  simp [edgeInstr, hrst, hactive, hrun]

/-- `SAMPLE_EOS` by the state its sample answers (R196). -/
theorem execSampleEos_eq {v : Sample} {s t : State} (h : execSample v s = .next t) :
    execSampleEos v s = if t.run = .run then execEos t else .next t := by
  unfold execSampleEos
  rw [h]
  rfl

/-- Every sample is answered by a next state (R212). -/
theorem execSample_next (v : Sample) (s : State) : ∃ t, execSample v s = .next t := by
  obtain ⟨u, hu⟩ := runEdge_next v s
  exact ⟨bumpPos u, execSample_eq hu⟩

/-- What the units make of a sample: it is the previous one now, and the position has not moved yet. -/
theorem runEdge_frame {v : Sample} {s t : State} (h : runEdge v s = .next t) :
    t.ed.prev = v ∧ t.pos = s.pos ∧ t.cfg = s.cfg := by
  cases runEdge_cases h with
  | prime _ e | ovf _ _ e | count _ _ _ e | collect _ _ _ _ _ e | finish _ _ _ _ _ e => cases e; exact ⟨rfl, rfl, rfl⟩
  | cls _ _ _ _ e =>
    obtain ⟨hed, -, -, hpos, hcfg, -⟩ := runBlock_frame e
    exact ⟨by rw [hed]; rfl, hpos, hcfg⟩

/-- A sample is the units' work, then the position counted from the one the sample started at (R191). -/
theorem execSample_of_runEdge {v : Sample} {s u : State} (h : runEdge v s = .next u) :
    execSample v s = .next { u with pos := (s.pos + 1) % 2 ^ s.cfg.posW } := by
  obtain ⟨-, hpos, hcfg⟩ := runEdge_frame h
  rw [execSample_eq h, bumpPos, hpos, hcfg]

/-- A symbol that halts the machine latches the position (R215). -/
theorem runBlock_errPos {c : SymCode} {w : Width} {s t : State} (h : runBlock c w s = .next t)
    (hs : s.run ≠ .halt) (ht : t.run = .halt) : t.err.errPos = s.pos := by
  cases runBlock_cases h with
  | fatal => rfl
  | skip | foundLong | start | latch | bit | byte | dataEnd => exact absurd ht hs

/-- A sample that halts the machine latches the position it started from: only the overflow and the block decoder halt (R215). -/
theorem runEdge_errPos {v : Sample} {s t : State} (h : runEdge v s = .next t)
    (hs : s.run ≠ .halt) (ht : t.run = .halt) : t.err.errPos = s.pos := by
  cases runEdge_cases h with
  | ovf _ _ e => cases e; rfl
  | cls _ _ _ _ e => exact (runBlock_errPos e hs ht :)
  | prime _ e | count _ _ _ e | collect _ _ _ _ _ e | finish _ _ _ _ _ e => cases e; exact absurd ht hs

/-- Every edge detector operation answers a next state. -/
theorem exec_edOp_next (o : EdOp) (v : Sample) (s : State) : ∃ t, exec (o.instr v) s = .next t := by
  cases o <;> exact ⟨_, rfl⟩

/-- Without an edge the units' work is the one edge detector operation the word selects (R191, step 1). -/
theorem runEdge_of_ne_edge {v : Sample} {s : State} {o : EdOp} (h : decodeEdge (edgeWord s v) = some o) (ho : o ≠ .edge) :
    runEdge v s = exec (o.instr v) s := by
  unfold runEdge
  rw [h]
  cases o with
  | prime | count | ovf => rfl
  | edge => exact absurd rfl ho

/-- A width in calibration is the one calibrator operation the word selects (R92). -/
theorem runCal_decoded (w : Width) (s : State) :
    ∃ j t, decode (.cal (calWord s) w) = .ok j ∧ exec j s = .next t ∧ runCal w s = .next t := by
  rw [decode_cal (decodeCal_calWord s), runCal_eq]
  split_ifs <;> exact ⟨_, _, rfl, rfl, rfl⟩

/-- A symbol is the one block decoder operation the word selects (R94). -/
theorem runBlock_decoded (c : SymCode) (w : Width) (s : State) :
    ∃ k t, decode (.blk (blockWord s c) w) = .ok k ∧ exec k s = .next t ∧ runBlock c w s = .next t := by
  obtain ⟨t, ht⟩ := runBlock_next c w s
  refine ⟨_, t, decode_blk (decodeBlk_blockWord s c) w, ?_, ht⟩
  rw [blkWordSym_blockWord, ← runBlock_eq, ht]

end Sys2Proof.Machine
end

section
/-! The top level: a sample through the units in order, the end of stream, both at one clock edge, and the inputs after the end
(spec/44_top_level.md R191, R192, R195, R196). -/

namespace Sys2Proof.Machine

/-- Settles O10: each unit's part of the sample is the operation its word decodes to, in the state the unit before has left; the
position moves on from where the sample started, which is what a fatal error has latched. -/
theorem sampleRunsTheUnitsInOrder : Obligations.SampleRunsTheUnitsInOrder := by
  unfold Obligations.SampleRunsTheUnitsInOrder
  refine ⟨decode_top decodeTop_sample, fun s v => ?_⟩
  obtain ⟨o, ho⟩ : ∃ o, decodeEdge (edgeWord s v) = some o := ⟨_, decodeEdge_edgeWord s v⟩
  obtain ⟨s1, h1⟩ := exec_edOp_next o v s
  refine ⟨o.instr v, s1, decode_edge ho v, h1, fun hne => ?_, fun he hl => ?_, fun he hl => ?_, fun t ht hs hhalt => ?_⟩
  · have hedge : o ≠ .edge := fun h => hne (edOp_instr_inj.mpr h)
    exact execSample_of_runEdge ((runEdge_of_ne_edge ho hedge).trans h1)
  · obtain rfl : o = .edge := edOp_instr_inj.mp he
    cases h1
    obtain ⟨j, s2, hj, h2, hrun⟩ := runCal_decoded (edgeWidth s) (afterEdge v s)
    exact ⟨j, s2, hj, h2, execSample_of_edge ho ((if_neg (by simp [afterEdge, hl])).trans hrun)⟩
  · obtain rfl : o = .edge := edOp_instr_inj.mp he
    cases h1
    obtain ⟨-, hcls, -⟩ := classifierOperationsEmitTheSymbol
    obtain ⟨j, c, s2, hj, h2, hout, hrun⟩ := hcls (afterEdge v s) (edgeWidth s)
    obtain ⟨k, s3, hk, h3, hblock⟩ := runBlock_decoded c (edgeWidth s) s2
    exact ⟨j, c, s2, k, s3, hj, h2, hout, hk, h3, execSample_of_edge ho ((if_pos hl).trans (hrun.trans hblock))⟩
  · obtain ⟨u, hu, rfl⟩ := execSample_cases ht
    obtain ⟨hprev, hpos, hcfg⟩ := runEdge_frame hu
    exact ⟨(runEdge_errPos hu hs hhalt :), hprev, by rw [bumpPos_pos, hpos, hcfg]⟩

/-- Settles O7: the rows of `IGNORE`, which the clock edge selects where the machine does not run. -/
theorem inputAfterTheEndIsIgnored : Obligations.InputAfterTheEndIsIgnored := by
  unfold Obligations.InputAfterTheEndIsIgnored
  refine ⟨fun x v => ⟨decode_top (decodeTop_sampleInDone x) v, decode_top (decodeTop_sampleInHalt x) v,
    decode_top decodeTop_eosInDone v, decode_top decodeTop_eosInHalt v⟩, fun _ => rfl, fun s hv hrun hrst hin => ?_⟩
  refine ⟨advance s, ?_, by simp [SameMachine], rfl⟩
  rw [step_eq hv, edgeInstr_eq_ignore hrun hrst hin]
  rfl

/-- Settles O8: the row `00100`, and the record `EOS` leaves, in which only `run` and the event are new. -/
theorem eosEndsTheSessionCleanly : Obligations.EosEndsTheSessionCleanly := by
  unfold Obligations.EosEndsTheSessionCleanly
  exact ⟨decode_top decodeTop_eos, fun _ => rfl⟩

/-- Settles O9: the row `01100`, and the state of the sample, which decides whether the end of stream follows. -/
theorem sampleEosIsSampleThenEos : Obligations.SampleEosIsSampleThenEos := by
  unfold Obligations.SampleEosIsSampleThenEos
  refine ⟨decode_top decodeTop_sampleEos, fun s v => ?_⟩
  obtain ⟨t, ht⟩ := execSample_next v s
  exact ⟨t, ht, fun hr => ⟨_, rfl, (execSampleEos_eq ht).trans (if_pos hr)⟩,
    fun hr => (execSampleEos_eq ht).trans (if_neg hr)⟩

end Sys2Proof.Machine
end

section
/-! SUPPORT. The clock edge of a reset and the one of a machine that does not run (spec/60_exceptions.md R217), the two ways into `HALT`
traced from the symbol up to the step (R215), and what each event does to the scan of the blocks (spec/44_top_level.md R197). -/

namespace Sys2Proof.Machine

/-- A clock edge with `rst` is `RESET`, whatever the other inputs and `run` (R193). -/
theorem step_of_rst {s : State} (hv : s.cfg.Valid) (hrst : (nextCycle s).rst = true) :
    step s = .next (resetRegisters (advance s)) := by
  have hi : edgeInstr s = .reset := by simp [edgeInstr, hrst]
  rw [step_eq hv, hi]
  rfl

/-- A clock edge without `rst` is `IDLE` or `IGNORE` where the machine does not run, and only its inputs are gone (R194, R195). -/
theorem step_of_not_running {s : State} (hv : s.cfg.Valid) (hrun : s.run ≠ .run) (hrst : (nextCycle s).rst = false) :
    step s = .next (advance s) := by
  rw [step_eq hv]
  by_cases hin : (nextCycle s).sampleValid = true ∨ (nextCycle s).eos = true
  · rw [edgeInstr_eq_ignore hrun hrst hin]
    rfl
  · obtain ⟨hsample, heos⟩ := not_or.mp hin
    have hi : edgeInstr s = .idle := by simp [edgeInstr, hrst, hsample, heos]
    rw [hi]
    rfl

/-- A symbol halts the machine only by the trap entry, with a code of the block decoder's own (R206 to R210). -/
theorem runBlock_halt {c : SymCode} {w : Width} {s t : State} (h : runBlock c w s = .next t)
    (hs : s.run ≠ .halt) (ht : t.run = .halt) :
    ∃ code info, code ≠ .none ∧ code ≠ .cntOvf ∧ t = raiseFatal code info s := by
  cases runBlock_cases h with
  | fatal _ code info hcode hovf => exact ⟨code, info, hcode, hovf, rfl⟩
  | skip | foundLong | start | latch | bit | byte | dataEnd => exact absurd ht hs

/-- A sample halts the machine only by the trap entry: of the edge detector right after `prev`, or of the block decoder after the
pulse and its symbol (R211, R206 to R210). -/
theorem runEdge_halt {v : Sample} {s t : State} (h : runEdge v s = .next t) (hs : s.run ≠ .halt) (ht : t.run = .halt) :
    t = raiseFatal .cntOvf {} (setPrev v s) ∨
      ∃ c code info, code ≠ .none ∧ code ≠ .cntOvf ∧
        t = raiseFatal code info (emit (.sym c (edgeWidth s)) (afterEdge v s)) := by
  cases runEdge_cases h with
  | ovf _ _ e => exact .inl e
  | cls _ _ _ _ e => exact .inr ⟨_, runBlock_halt e hs ht⟩
  | prime _ e | count _ _ _ e | collect _ _ _ _ _ e | finish _ _ _ _ _ e => cases e; exact absurd ht hs

/-- The end of stream does not halt the machine (R192). -/
theorem execEos_run {s t : State} (h : execEos s = .next t) : t.run = .done := by
  cases h
  rfl

/-- A step enters `HALT` only by a sample whose units have halted the machine; after it only the position moves (R191, R196). -/
theorem step_halt {s t : State} (hs : s.run = .run) (h : step s = .next t) (ht : t.run = .halt) :
    ∃ u, runEdge (portSample s.cfg (nextCycle s).sample) (advance s) = .next u ∧ u.run = .halt ∧ t = bumpPos u := by
  have hrst : (nextCycle s).rst = false := by
    rw [← Bool.not_eq_true]
    intro hrst
    rw [step_of_rst (step_cases h).1 hrst] at h
    cases h
    cases ht
  cases step_cases_of_not_rst hrst h with
  | unchanged _ e => subst e; simp [hs] at ht
  | eos _ _ _ e => simp [execEos_run e] at ht
  | sample _ _ _ e =>
    obtain ⟨u, hu, rfl⟩ := execSample_cases e
    exact ⟨u, hu, ht, rfl⟩
  | sampleEos _ _ _ e =>
    obtain ⟨w, hw, ⟨-, he⟩ | ⟨-, rfl⟩⟩ := execSampleEos_cases e
    · simp [execEos_run he] at ht
    · obtain ⟨u, hu, rfl⟩ := execSample_cases hw
      exact ⟨u, hu, ht, rfl⟩

@[simp] theorem isBlockEvent_pulse (w : Width) : (Event.pulse w).isBlockEvent = false := rfl
@[simp] theorem isBlockEvent_calDone (r : Width) : (Event.calDone r).isBlockEvent = false := rfl
@[simp] theorem isBlockEvent_sym (c : SymCode) (w : Width) : (Event.sym c w).isBlockEvent = false := rfl
@[simp] theorem isBlockEvent_done (d : DoneStatus) : (Event.done d).isBlockEvent = false := rfl

/-- The scan goes on with the events added to a trace. -/
theorem scanTrace_append (tr evs : List Event) : scanTrace (tr ++ evs) = evs.foldl scanEvent (scanTrace tr) :=
  List.foldl_append

/-- Only the events of the block decoder move the scan (R197). -/
theorem scanEvent_of_not_block {e : Event} (h : e.isBlockEvent = false) (b : BlockScan) : scanEvent b e = b := by
  cases e with
  | pulse | calDone | sym | fatal | done => rfl
  | blockStart | byte | blockEnd => cases h

/-- A trace that grows by none of them has the blocks and the residue it had. -/
theorem scanTrace_append_of_not_block {evs : List Event} (h : ∀ e ∈ evs, e.isBlockEvent = false) (tr : List Event) :
    scanTrace (tr ++ evs) = scanTrace tr := by
  rw [scanTrace_append]
  induction evs with
  | nil => rfl
  | cons e evs ih =>
    obtain ⟨he, hevs⟩ := List.forall_mem_cons.mp h
    rw [List.foldl_cons, scanEvent_of_not_block he, ih hevs]

/-- The closed blocks stand, and at most the open one is added to them (R224). -/
def BlocksGrow (tr tr' : List Event) : Prop :=
  blocks tr' = blocks tr ∨ ∃ l, residue tr = some l ∧ blocks tr' = blocks tr ++ [l]

/-- One event takes back no closed block; `BLOCK_END` closes the open one (R197). -/
theorem blocksGrow_snoc (tr : List Event) (e : Event) : BlocksGrow tr (tr ++ [e]) := by
  unfold BlocksGrow blocks residue
  rw [scanTrace_append, List.foldl_cons, List.foldl_nil]
  cases e with
  | pulse | calDone | sym | blockStart | byte | fatal | done => exact .inl rfl
  | blockEnd =>
    cases hcur : (scanTrace tr).cur with
    | none => exact .inl (by simp [scanEvent, hcur])
    | some l => exact .inr ⟨l, rfl, by simp [scanEvent, hcur]⟩

/-- At most one event of the block decoder after others that are not: at most one block more. -/
theorem blocksGrow_append {tr pre blk : List Event} (hpre : ∀ e ∈ pre, e.isBlockEvent = false) (hblk : blk.length ≤ 1) :
    BlocksGrow tr (tr ++ pre ++ blk) := by
  have hscan : scanTrace (tr ++ pre) = scanTrace tr := scanTrace_append_of_not_block hpre tr
  match blk, hblk with
  | [], _ => exact .inl (by rw [List.append_nil, blocks, hscan, blocks])
  | [e], _ =>
    have hgrow := blocksGrow_snoc (tr ++ pre) e
    simpa only [BlocksGrow, blocks, residue, hscan] using hgrow

/-- The units' work on a sample closes at most the open block: only a classified pulse reaches the block decoder, whose event comes
after the `PULSE` and the `SYM` (R72). -/
theorem runEdge_blocksGrow {v : Sample} {s t : State} (h : runEdge v s = .next t) : BlocksGrow s.trace t.trace := by
  cases runEdge_cases h with
  | prime _ e | count _ _ _ e => cases e; exact .inl rfl
  | ovf _ _ e | collect _ _ _ _ _ e => cases e; exact blocksGrow_snoc _ _
  | finish _ _ _ _ _ e => cases e; exact blocksGrow_append (pre := [.pulse (edgeWidth s)]) (by simp) (by simp)
  | cls _ _ _ _ e =>
    obtain ⟨-, -, -, -, -, -, ⟨evs, htrace, -, -, hlen, -⟩, -⟩ := runBlock_frame e
    have hevents : t.trace = s.trace ++ [.pulse (edgeWidth s), .sym (classOf s (edgeWidth s)) (edgeWidth s)] ++ evs := by
      simp [htrace, afterEdge]
    exact hevents ▸ blocksGrow_append (by simp) hlen

/-- A sample closes at most the open block. -/
theorem execSample_blocksGrow {v : Sample} {s t : State} (h : execSample v s = .next t) : BlocksGrow s.trace t.trace := by
  obtain ⟨u, hu, rfl⟩ := execSample_cases h
  rw [bumpPos_trace]
  exact runEdge_blocksGrow hu

/-- The end of stream closes no block (R197). -/
theorem execEos_blocks {s t : State} (h : execEos s = .next t) : blocks t.trace = blocks s.trace := by
  cases h
  rw [emit_trace, blocks, scanTrace_append_of_not_block (by simp) s.trace, blocks]

/-- A sample at the end of the stream closes at most the open block, by the sample. -/
theorem execSampleEos_blocksGrow {v : Sample} {s t : State} (h : execSampleEos v s = .next t) : BlocksGrow s.trace t.trace := by
  obtain ⟨u, hu, ⟨-, he⟩ | ⟨-, rfl⟩⟩ := execSampleEos_cases h
  · rw [BlocksGrow, execEos_blocks he]
    exact execSample_blocksGrow hu
  · exact execSample_blocksGrow hu

/-- A clock edge without `rst` closes at most the open block. -/
theorem step_blocksGrow {s t : State} (hrst : (nextCycle s).rst = false) (h : step s = .next t) :
    BlocksGrow s.trace t.trace := by
  cases step_cases_of_not_rst hrst h with
  | unchanged _ e => subst e; exact .inl rfl
  | eos _ _ _ e => exact .inl (execEos_blocks (s := advance s) e)
  | sample _ _ _ e => exact execSample_blocksGrow (s := advance s) e
  | sampleEos _ _ _ e => exact execSampleEos_blocksGrow (s := advance s) e

end Sys2Proof.Machine
end

section
/-! Fatal errors: the way into `HALT`, the way out, and the blocks that stand at the error (spec/60_exceptions.md R215, R217,
R224). -/

namespace Sys2Proof.Machine

/-- Settles O46: without `rst` the edge is `IDLE` or `IGNORE`, with it `RESET`. -/
theorem haltLastsUntilReset : Obligations.HaltLastsUntilReset := by
  unfold Obligations.HaltLastsUntilReset
  intro s hv hhalt
  cases hrst : (nextCycle s).rst with
  | false =>
    have hrun : s.run ≠ .run := by simp [hhalt]
    exact ⟨advance s, step_of_not_running hv hrun hrst, fun _ => ⟨by simp [SameMachine], rfl⟩, by simp⟩
  | true =>
    exact ⟨resetRegisters (advance s), step_of_rst hv hrst, by simp, fun _ => by simp [SameMachine, State.resetWith]⟩

/-- Settles O44: the step is a sample whose units end in the trap entry, of the edge detector with no event before it, or of the block
decoder after the pulse and its symbol; both leave what R215 says, and only the position moves after. -/
theorem entryToHaltLatchesTheError : Obligations.EntryToHaltLatchesTheError := by
  unfold Obligations.EntryToHaltLatchesTheError
  intro s t hs h ht
  obtain ⟨u, hu, hhalt, rfl⟩ := step_halt hs h ht
  rcases runEdge_halt hu (by simp [hs]) hhalt with rfl | ⟨c, code, info, hcode, hovf, rfl⟩
  · exact ⟨.cntOvf, {}, [], by simp, rfl, rfl, rfl, by simp, rfl, rfl, rfl, rfl, rfl⟩
  · refine ⟨code, info, [.pulse _, .sym c _], hcode, rfl, rfl, ?_, by simp, rfl, rfl, rfl, ?_, rfl⟩
    · simp [raiseFatal, afterEdge]
    · rw [if_neg hovf]
      rfl

/-- Settles O52: no step closes more than the open block, and the events of a step that halts (O44) close none. -/
theorem closedBlocksStand : Obligations.ClosedBlocksStand := by
  unfold Obligations.ClosedBlocksStand
  intro s t h hrst
  refine ⟨step_blocksGrow hrst h, fun hs ht => ?_⟩
  obtain ⟨code, info, evs, -, -, hout, htrace, hevs, -⟩ := entryToHaltLatchesTheError s t hs h ht
  rw [htrace, hout, ← List.append_assoc, blocks, scanTrace_append, scanTrace_append_of_not_block hevs]
  rfl

end Sys2Proof.Machine
end

section
/-! SUPPORT. The encodings read back (spec/30_encoding.md section 3): which operands the rows of R94 exclude, and the words each unit's
map leaves out. -/

namespace Sys2Proof.Machine

/-- The rows of `BD.SKIP` and `BD.ERR_EXPECTED_M` exclude one symbol each (R94); every other operation has a word for every operand. -/
def HasWord (i : Instr) : Prop := i ≠ .bdSkip .long ∧ ∀ w, i ≠ .bdErrExpectedM .medium w

/-- A well-formed operation has a word. -/
theorem hasWord_of_wf {g : Config} {i : Instr} (h : i.wf g = true) : HasWord i := by
  constructor
  · rintro rfl
    simp [Instr.wf] at h
  · rintro w rfl
    simp [Instr.wf] at h

/-- An operation that has a word is read back from it: the operand fills the low bits of the block decoder's words and stands beside
the others. -/
theorem decode_encode {i : Instr} (h : HasWord i) : decode (encode i) = .ok i := by
  obtain ⟨hskip, herr⟩ := h
  cases i with
  | bdSkip c =>
    cases c with
    | long => exact absurd rfl hskip
    | short | medium | unknown => rfl
  | bdErrExpectedM c w =>
    cases c with
    | medium => exact absurd rfl (herr w)
    | short | long | unknown => rfl
  | bdLatch c w | bdBadPair c w => cases c <;> rfl
  | _ => rfl

/-- The words the map R90 leaves out are those of the reserved code of `run` with an input but `rst`. -/
theorem decodeTop_eq_none_iff : ∀ t : BitVec 5, decodeTop t = none ↔
    ∃ sv eos : Bool, (sv = true ∨ eos = true) ∧ t = 0b0#1 ++ BitVec.ofBool sv ++ BitVec.ofBool eos ++ 0b11#2 := by
  decide

/-- The map R91 covers every word. -/
theorem decodeEdge_ne_none : ∀ e : BitVec 5, decodeEdge e ≠ none := by
  decide

/-- The map R92 covers every word. -/
theorem decodeCal_ne_none : ∀ c : BitVec 1, decodeCal c ≠ none := by
  decide

/-- The map R93 covers every word (log entry 16). -/
theorem decodeCls_ne_none : ∀ p : BitVec 3, decodeCls p ≠ none := by
  decide

/-- A word the map R94 leaves out has the reserved code of `bd_state` in its high bits. -/
theorem eq_reservedState_of_decodeBlk : ∀ b : BitVec 7, decodeBlk b = none → b = 0b11#2 ++ b.extractLsb' 0 5 := by
  decide

/-- A word that selects `BD.SKIP` holds no `Long`. -/
theorem blkWordSym_of_skip : ∀ b : BitVec 7, decodeBlk b = some .skip → blkWordSym b ≠ .long := by
  decide

/-- A word that selects `BD.ERR_EXPECTED_M` holds no `Medium`. -/
theorem blkWordSym_of_errExpectedM : ∀ b : BitVec 7, decodeBlk b = some .errExpectedM → blkWordSym b ≠ .medium := by
  decide

/-- The operation a block decoder word selects has a word. -/
theorem hasWord_of_decodeBlk {b : BitVec 7} {o : BdOp} (h : decodeBlk b = some o) (w : Width) :
    HasWord (o.instr (blkWordSym b) w) := by
  cases o with
  | skip => simpa [HasWord, BdOp.instr] using blkWordSym_of_skip b h
  | errExpectedM => simpa [HasWord, BdOp.instr] using blkWordSym_of_errExpectedM b h
  | foundLong | start | latch | bit0 | bit1 | byteEnd | dataEnd | badPair => simp [HasWord, BdOp.instr]

/-- Which words the decoder rejects, unit by unit (R90 to R94, R96). -/
theorem decode_eq_error_iff (sw : SelWord) : (∃ r, decode sw = .error r) ↔
    (∃ (sv eos : Bool) (v : Sample), (sv = true ∨ eos = true) ∧
      sw = .top (0b0#1 ++ BitVec.ofBool sv ++ BitVec.ofBool eos ++ 0b11#2) v) ∨
    ∃ (x : BitVec 5) (w : Width), sw = .blk (0b11#2 ++ x) w := by
  cases sw with
  | top t v =>
    cases ht : decodeTop t with
    | none => simpa [decode_top_reserved ht] using (decodeTop_eq_none_iff t).mp ht
    | some o =>
      have hcovered := mt (decodeTop_eq_none_iff t).mpr (by simp [ht])
      simpa [decode_top ht] using hcovered
  | edge e v =>
    obtain ⟨o, ho⟩ := Option.ne_none_iff_exists'.mp (decodeEdge_ne_none e)
    simp [decode_edge ho]
  | cal c w =>
    obtain ⟨o, ho⟩ := Option.ne_none_iff_exists'.mp (decodeCal_ne_none c)
    simp [decode_cal ho]
  | cls p w =>
    obtain ⟨o, ho⟩ := Option.ne_none_iff_exists'.mp (decodeCls_ne_none p)
    simp [decode_cls ho]
  | blk b w =>
    cases hb : decodeBlk b with
    | none => simpa [decode_blk_reserved hb] using ⟨_, eq_reservedState_of_decodeBlk b hb⟩
    | some o =>
      have hcovered : ∀ x : BitVec 5, b ≠ 0b11#2 ++ x := by
        rintro x rfl
        simp [decodeBlk_reservedState x] at hb
      simpa [decode_blk hb] using hcovered

/-- A decoded operation has a word, and it is one of the same unit. -/
theorem hasWord_of_decode {sw : SelWord} {i : Instr} (h : decode sw = .ok i) : HasWord i ∧ (encode i).tag = sw.tag := by
  cases sw with
  | top t v =>
    cases ht : decodeTop t with
    | none => simp [decode_top_reserved ht] at h
    | some o =>
      rw [decode_top ht] at h
      cases h
      cases o <;> simp [HasWord, TopOp.instr, encode, SelWord.tag]
  | edge e v =>
    obtain ⟨o, ho⟩ := Option.ne_none_iff_exists'.mp (decodeEdge_ne_none e)
    rw [decode_edge ho] at h
    cases h
    cases o <;> simp [HasWord, EdOp.instr, encode, SelWord.tag]
  | cal c w =>
    obtain ⟨o, ho⟩ := Option.ne_none_iff_exists'.mp (decodeCal_ne_none c)
    rw [decode_cal ho] at h
    cases h
    cases o <;> simp [HasWord, CalOp.instr, encode, SelWord.tag]
  | cls p w =>
    obtain ⟨o, ho⟩ := Option.ne_none_iff_exists'.mp (decodeCls_ne_none p)
    rw [decode_cls ho] at h
    cases h
    cases o <;> simp [HasWord, PcOp.instr, encode, SelWord.tag]
  | blk b w =>
    cases hb : decodeBlk b with
    | none => simp [decode_blk_reserved hb] at h
    | some o =>
      rw [decode_blk hb] at h
      cases h
      exact ⟨hasWord_of_decodeBlk hb w, by cases o <;> rfl⟩

end Sys2Proof.Machine
end

section
/-! The decoder and the encoder agree (spec/30_encoding.md section 3 and section 5). -/

namespace Sys2Proof.Machine

/-- Settles O57: the operands a configuration admits exclude the two symbols R94 has no row for. -/
theorem decodeInvertsEncode : Obligations.DecodeInvertsEncode := by
  unfold Obligations.DecodeInvertsEncode
  exact fun g i h => decode_encode (hasWord_of_wf h)

/-- Settles O58: the words left out unit by unit; an operation read from a word has one of its own, in the same unit. -/
theorem onlyReservedWordsAreRejected : Obligations.OnlyReservedWordsAreRejected := by
  unfold Obligations.OnlyReservedWordsAreRejected
  refine fun sw => ⟨decode_eq_error_iff sw, fun i h => ?_⟩
  obtain ⟨hword, htag⟩ := hasWord_of_decode h
  exact ⟨decode_encode hword, htag⟩

/-- Settles O59: the six words are those of the rows `01000`, `11110`, `1`, `01x`, `1011001` and `10111xx`. -/
theorem writtenOutWordsDecode : Obligations.WrittenOutWordsDecode := by
  unfold Obligations.WrittenOutWordsDecode
  exact ⟨decode_top decodeTop_sample _, decode_edge decodeEdge_qualifying _, (calibratorSelection.1 16).2,
    decode_cls (decodeCls_belowMedium 0b1#1) _, decode_pair .long .medium _, decode_pair .unknown .unknown _⟩

end Sys2Proof.Machine
end

section
/-! SUPPORT. The invariants of the state (spec/10_state.md R45), kept by each unit's writes: the edge detector's registers, the block
decoder's, the calibration buffer and the thresholds, the trap entry. -/

namespace Sys2Proof.Machine

/-- R8: the counter has at least seven bits. -/
theorem cntW_ge_of_valid {g : Config} (hg : g.Valid) : 7 ≤ g.cntW := by
  obtain ⟨-, hcntW, -⟩ := hg
  exact hcntW

/-- R8: the calibrator collects at least one width. -/
theorem calCount_pos_of_valid {g : Config} (hg : g.Valid) : 0 < g.calCount := by
  obtain ⟨-, -, hcount, -⟩ := hg
  exact hcount

/-- R8: the rank is an index of the buffer. -/
theorem calRank_lt_of_valid {g : Config} (hg : g.Valid) : g.calRank < g.calCount := by
  obtain ⟨-, -, -, hrank, -⟩ := hg
  exact hrank

/-- R8: with `CAL_BYPASS` the preset is a pulse width. -/
theorem s0Preset_bounds_of_valid {g : Config} (hg : g.Valid) (hb : g.calBypass = true) :
    1 ≤ g.s0Preset ∧ g.s0Preset < 2 ^ g.cntW := by
  obtain ⟨-, -, -, -, -, -, hpreset, -⟩ := hg
  exact hpreset hb

/-- The scaled thresholds of a positive reference width are in strict order (spec/00_scope.md R8). -/
theorem thresholds_lt {g : Config} (hg : g.Valid) {r : Width} (hr : 1 ≤ r) :
    g.kS * r < g.kM * r ∧ g.kM * r < g.kL * r := by
  obtain ⟨-, -, -, -, -, -, -, -, -, hSM, hML, -⟩ := hg
  exact ⟨Nat.mul_lt_mul_of_pos_right hSM hr, Nat.mul_lt_mul_of_pos_right hML hr⟩

/-- The threshold set of a reference width. -/
def thresholdsOf (g : Config) (r : Width) : ClsRegs :=
  { s0 := r, thS := g.kS * r, thM := g.kM * r, thL := g.kL * r, thValid := true }

/-- With this hardware's constants they are the multiples R28 names. -/
theorem thresholdsOf_source {g : Config} (hk : Config.SourceConstants g) (r : Width) :
    (thresholdsOf g r).thS = 110 * r ∧ (thresholdsOf g r).thM = 154 * r ∧ (thresholdsOf g r).thL = 209 * r := by
  obtain ⟨hS, hM, hL, -⟩ := hk
  simp only [thresholdsOf, hS, hM, hL, and_self]

/-- The thresholds after a reset with `CAL_BYPASS` are those of the preset (R46). -/
theorem clsReset_of_bypass {g : Config} (hb : g.calBypass = true) : ClsRegs.reset g = thresholdsOf g g.s0Preset := if_pos hb

/-- The thresholds are loaded after a reset exactly with `CAL_BYPASS` (R46). -/
theorem clsReset_thValid (g : Config) : (ClsRegs.reset g).thValid = g.calBypass := by
  unfold ClsRegs.reset
  cases g.calBypass <;> rfl

/-- Zero fits the sample port. -/
theorem sampleFits_zero (g : Config) : sampleFits g 0 = true := by
  simp [sampleFits]

/-- The registers after a reset meet the invariants (R46). -/
theorem inv_resetWith {g : Config} (hg : g.Valid) : Inv (State.resetWith g) where
  cfg_valid := hg
  cal_le := Nat.zero_le _
  buf_length := List.length_replicate
  buf_fits := by simp [State.resetWith, CalRegs.reset]
  buf_pos := fun i h => absurd h (Nat.not_lt_zero i)
  collecting := fun hn => ⟨calCount_pos_of_valid hg, (clsReset_thValid g).symm.trans hn⟩
  loaded := fun hl => by
    have hb : g.calBypass = true := (clsReset_thValid g).symm.trans hl
    obtain ⟨hpos, hfits⟩ := s0Preset_bounds_of_valid hg hb
    rw [State.resetWith, clsReset_of_bypass hb]
    exact ⟨hpos, hfits, rfl, rfl, rfl⟩
  loaded_source := fun hl hk => by
    have hb : g.calBypass = true := (clsReset_thValid g).symm.trans hl
    rw [State.resetWith, clsReset_of_bypass hb]
    exact thresholdsOf_source hk g.s0Preset
  ordered := fun hl => by
    have hb : g.calBypass = true := (clsReset_thValid g).symm.trans hl
    rw [State.resetWith, clsReset_of_bypass hb]
    exact thresholds_lt hg (s0Preset_bounds_of_valid hg hb).1
  no_symbol_yet := fun _ => ⟨rfl, rfl, rfl, rfl⟩
  acc_high_zero := fun i _ => by simp [State.resetWith, BlkRegs.reset]
  acc_empty_outside := fun _ => ⟨rfl, rfl⟩
  halt_iff_error := by simp [State.resetWith, ErrRegs.reset]
  prev_fits := sampleFits_zero g
  cnt_fits := Nat.two_pow_pos _
  held_fits := Nat.two_pow_pos _
  err_widths_fit := ⟨Nat.two_pow_pos _, Nat.two_pow_pos _⟩
  pos_fits := ⟨Nat.two_pow_pos _, Nat.two_pow_pos _⟩

/-- A write of the edge detector's registers and an event keep the invariants where the registers' ranges are kept (R22, R23). -/
theorem inv_of_edge_write {s t : State} (h : Inv s) (ht : t = { s with ed := t.ed, out := t.out, trace := t.trace })
    (hprev : sampleFits s.cfg t.ed.prev = true) (hcnt : t.ed.cnt < 2 ^ s.cfg.cntW) : Inv t := by
  rw [ht]
  exact { h with prev_fits := hprev, cnt_fits := hcnt }

/-- A write of the block decoder's registers and an event keep the invariants, once the thresholds are loaded, where the accumulator
holds no bit beyond the count, is empty outside `READ`, and the held width fits (R30 to R34). -/
theorem inv_of_block_write {s t : State} (h : Inv s) (hl : s.cls.thValid = true)
    (ht : t = { s with bd := t.bd, out := t.out, trace := t.trace })
    (hhigh : ∀ i, t.bd.nbits.val ≤ i → t.bd.acc.getLsbD i = false)
    (hempty : t.bd.bdState ≠ .read → t.bd.nbits = 0 ∧ t.bd.acc = 0) (hheld : t.bd.hW < 2 ^ s.cfg.cntW) : Inv t := by
  rw [ht]
  exact { h with
    no_symbol_yet := fun hn => by simp [hl] at hn
    acc_high_zero := hhigh
    acc_empty_outside := hempty
    held_fits := hheld }

/-- The trap entry keeps the invariants where the widths it records fit (R215). -/
theorem inv_raiseFatal {s : State} {code : ErrCode} {info : ErrInfo} (h : Inv s) (hcode : code ≠ .none)
    (ha : info.aW < 2 ^ s.cfg.cntW) (hb : info.bW < 2 ^ s.cfg.cntW) : Inv (raiseFatal code info s) :=
  { h with
    halt_iff_error := by simp [hcode]
    err_widths_fit := ⟨ha, hb⟩
    pos_fits := ⟨h.pos_fits.1, h.pos_fits.1⟩ }

/-- An event keeps the invariants. -/
theorem inv_emit {s : State} (e : Event) (h : Inv s) : Inv (emit e s) := { h with }

/-- The position stays in its range (R24). -/
theorem inv_bumpPos {s : State} (h : Inv s) : Inv (bumpPos s) :=
  { h with pos_fits := ⟨Nat.mod_lt _ (Nat.two_pow_pos _), h.pos_fits.2⟩ }

/-- An append stores no bit beyond the count it leaves (R168). -/
theorem appendBit_high_zero {s : State} (bit : Bool) (h : ∀ i, s.bd.nbits.val ≤ i → s.bd.acc.getLsbD i = false) {i : Nat}
    (hi : (appendBit bit s).bd.nbits.val ≤ i) : (appendBit bit s).bd.acc.getLsbD i = false := by
  rw [appendBit_nbits_val] at hi
  rcases Nat.lt_or_ge s.bd.nbits.val 9 with hn | hn
  · rcases Nat.lt_or_ge i 9 with h9 | h9
    · rw [getLsbD_appendBit bit hn h9, if_neg (by omega)]
      exact h i (by omega)
    · exact BitVec.getLsbD_of_ge _ _ h9
  · rw [appendBit_acc_of_full bit hn]
    exact h i (by omega)

/-- The empty accumulator holds no bit. -/
theorem zero_high_zero (n i : Nat) (_ : n ≤ i) : (0 : Acc).getLsbD i = false := BitVec.getLsbD_zero

/-- A symbol keeps the invariants once the thresholds are loaded. -/
theorem inv_runBlock {c : SymCode} {w : Width} {s t : State} (h : Inv s) (hl : s.cls.thValid = true)
    (hw : w < 2 ^ s.cfg.cntW) (hr : runBlock c w s = .next t) : Inv t := by
  cases runBlock_cases hr with
  | skip => exact h
  | foundLong hb =>
    exact inv_of_block_write h hl rfl h.acc_high_zero (fun _ => h.acc_empty_outside (by simp [hb])) h.held_fits
  | start => exact inv_of_block_write h hl rfl (zero_high_zero 0) (fun _ => ⟨rfl, rfl⟩) h.held_fits
  | latch => exact inv_of_block_write h hl rfl h.acc_high_zero h.acc_empty_outside hw
  | bit hb _ b =>
    exact inv_of_block_write h hl rfl (fun _ => appendBit_high_zero b h.acc_high_zero) (fun hn => absurd hb hn) h.held_fits
  | byte => exact inv_of_block_write h hl rfl (zero_high_zero 0) (fun _ => ⟨rfl, rfl⟩) h.held_fits
  | dataEnd => exact inv_of_block_write h hl rfl (zero_high_zero 0) (fun _ => ⟨rfl, rfl⟩) h.held_fits
  | fatal _ code info hcode _ ha hb =>
    have hzero : 0 < 2 ^ s.cfg.cntW := Nat.two_pow_pos _
    refine inv_raiseFatal h hcode ?_ ?_
    · rcases ha with ha | ha <;> rw [ha]
      exacts [hzero, h.held_fits]
    · rcases hb with hb | hb <;> rw [hb]
      exacts [hzero, hw]

/-- The reference width is one of the widths collected (R133). -/
theorem rankStatistic_mem {g : Config} {buf : List Width} (h : g.calRank < buf.length) : rankStatistic g buf ∈ buf :=
  (sortAsc_perm buf).mem_iff.mp (List.mem_of_getElem? (sortAsc_getElem?_calRank h))

/-- The width written at `cal_n` joins the positive elements of the buffer (R131). -/
theorem memRead_pos_after_write {s : State} {w : Width} (h : Inv s) (hn : s.cal.calN < s.cfg.calCount) (hw : 1 ≤ w) {i : Nat}
    (hi : i < s.cal.calN + 1) : 1 ≤ memRead i (memWrite s.cal.calN w s) := by
  rcases Nat.lt_or_eq_of_le (Nat.le_of_lt_succ hi) with hlt | rfl
  · rw [memRead_memWrite_other (Nat.ne_of_lt hlt)]
    exact h.buf_pos i hlt
  · rwa [memRead_memWrite_same (h.buf_length ▸ hn)]

/-- `CAL.COLLECT` keeps the invariants (R131). -/
theorem inv_collect {s : State} {w : Width} (h : Inv s) (hl : s.cls.thValid = false) (hlast : s.cal.calN ≠ s.cfg.calCount - 1)
    (hpos : 1 ≤ w) (hw : w < 2 ^ s.cfg.cntW) : Inv (setCalN (s.cal.calN + 1) (memWrite s.cal.calN w s)) := by
  obtain ⟨hn, hbypass⟩ := h.collecting hl
  have hn' : s.cal.calN + 1 < s.cfg.calCount := by omega
  exact { h with
    cal_le := hn'.le
    buf_length := (memWrite_length _ _ _).trans h.buf_length
    buf_fits := memWrite_bound h.buf_fits hw
    buf_pos := fun _ hi => memRead_pos_after_write h hn hpos hi
    collecting := fun _ => ⟨hn', hbypass⟩ }

/-- The reference width `CAL.FINISH` loads is a pulse width: every element of the completed buffer is (R132). -/
theorem calReference_bounds {s : State} {w : Width} (h : Inv s) (hl : s.cls.thValid = false)
    (hlast : s.cal.calN = s.cfg.calCount - 1) (hpos : 1 ≤ w) (hw : w < 2 ^ s.cfg.cntW) :
    1 ≤ calReference w s ∧ calReference w s < 2 ^ s.cfg.cntW := by
  have hn : s.cal.calN < s.cfg.calCount := (h.collecting hl).1
  have hlen : (memWrite s.cal.calN w s).cal.calBuf.length = s.cfg.calCount := (memWrite_length _ _ _).trans h.buf_length
  have hmem : calReference w s ∈ (memWrite s.cal.calN w s).cal.calBuf :=
    rankStatistic_mem (hlen.symm ▸ calRank_lt_of_valid h.cfg_valid)
  refine ⟨?_, memWrite_bound h.buf_fits hw _ hmem⟩
  obtain ⟨i, hi, hread⟩ := List.mem_iff_getElem.mp hmem
  have hone := memRead_pos_after_write h hn hpos (i := i) (by omega)
  rwa [memRead, List.getD_eq_getElem _ _ hi, hread] at hone

/-- `CAL.FINISH` keeps the invariants: the calibration is complete and the thresholds are those of a width (R132). -/
theorem inv_finish {s : State} {w : Width} (h : Inv s) (hl : s.cls.thValid = false) (hlast : s.cal.calN = s.cfg.calCount - 1)
    (hpos : 1 ≤ w) (hw : w < 2 ^ s.cfg.cntW) :
    Inv (emit (.calDone (calReference w s)) (loadThresholds (calReference w s) (calComplete w s))) := by
  have hn : s.cal.calN < s.cfg.calCount := (h.collecting hl).1
  obtain ⟨href, href'⟩ := calReference_bounds h hl hlast hpos hw
  have hall : ∀ i, i < s.cfg.calCount → 1 ≤ memRead i (memWrite s.cal.calN w s) :=
    fun i hi => memRead_pos_after_write h hn hpos (by omega)
  exact { h with
    cal_le := le_refl _
    buf_length := (memWrite_length _ _ _).trans h.buf_length
    buf_fits := memWrite_bound h.buf_fits hw
    buf_pos := hall
    collecting := by simp
    loaded := fun _ => ⟨href, href', rfl, rfl, rfl⟩
    loaded_source := fun _ hk => thresholdsOf_source hk _
    ordered := fun _ => thresholds_lt h.cfg_valid href
    no_symbol_yet := by simp }

/-- Below its maximum the counter can be incremented (R116). -/
theorem edgeWidth_lt {s : State} (h : s.ed.cnt < 2 ^ s.cfg.cntW) (hm : s.ed.cnt ≠ 2 ^ s.cfg.cntW - 1) :
    edgeWidth s < 2 ^ s.cfg.cntW := by
  unfold edgeWidth
  change s.ed.cnt + 1 < _
  omega

/-- The edge detector's part of an edge keeps the invariants (R114). -/
theorem inv_afterEdge {s : State} {v : Sample} (h : Inv s) (hv : sampleFits s.cfg v = true) : Inv (afterEdge v s) :=
  inv_of_edge_write h rfl hv (Nat.two_pow_pos _)

/-- The units' work on a sample keeps the invariants. -/
theorem inv_runEdge {v : Sample} {s t : State} (h : Inv s) (hv : sampleFits s.cfg v = true) (hr : runEdge v s = .next t) :
    Inv t := by
  have hwidth := edgeWidth_lt h.cnt_fits
  have hpos : 1 ≤ edgeWidth s := Nat.le_add_left 1 s.ed.cnt
  have hedge := inv_afterEdge h hv
  cases runEdge_cases hr with
  | prime _ e => subst e; exact inv_of_edge_write h rfl hv h.cnt_fits
  | ovf _ _ e =>
    subst e
    exact inv_raiseFatal (inv_of_edge_write h rfl hv h.cnt_fits) (by simp) (Nat.two_pow_pos _) (Nat.two_pow_pos _)
  | count _ hm _ e => subst e; exact inv_of_edge_write h rfl hv (hwidth hm)
  | collect _ hm _ hl hn e => cases e; exact inv_collect hedge hl hn hpos (hwidth hm)
  | finish _ hm _ hl hn e => cases e; exact inv_finish hedge hl hn hpos (hwidth hm)
  | cls _ hm _ hl e => exact inv_runBlock (inv_emit _ hedge) hl (hwidth hm) e

/-- A sample keeps the invariants. -/
theorem inv_execSample {v : Sample} {s t : State} (h : Inv s) (hv : sampleFits s.cfg v = true)
    (hr : execSample v s = .next t) : Inv t := by
  obtain ⟨u, hu, rfl⟩ := execSample_cases hr
  exact inv_bumpPos (inv_runEdge h hv hu)

/-- The end of stream keeps the invariants: a machine that runs has recorded no error (R192). -/
theorem inv_execEos {s t : State} (h : Inv s) (hs : s.run = .run) (hr : execEos s = .next t) : Inv t := by
  cases hr
  have hnone : s.err.errCode = .none := by
    by_contra herr
    simpa [hs] using h.halt_iff_error.mpr herr
  exact { h with halt_iff_error := by simp [hnone] }

end Sys2Proof.Machine
end

section
/-! Every step keeps the invariants of the state (spec/10_state.md R45). -/

namespace Sys2Proof.Machine

/-- Settles O53, by the operations a step can select: a reset establishes the invariants, a sample and an end of stream keep them. -/
theorem stepKeepsTheStateInvariant : Obligations.StepKeepsTheStateInvariant := by
  unfold Obligations.StepKeepsTheStateInvariant
  intro s t h hstep
  refine step_keeps (Q := Inv) (fun _ h => { h with }) (fun s hg _ => ?_) (fun _ _ _ _ hv _ h => inv_execSample h hv)
    (fun _ _ hrun h => inv_execEos h hrun) h hstep
  exact { inv_resetWith hg with }

end Sys2Proof.Machine
end

section
/-! SUPPORT. What a width adds to the trace on its way downstream, and the units' work on a sample as the edge detector sees it: what
becomes of its registers, which pulse is emitted, and whether an error is recorded (spec/40_edge_detector.md section 2). -/

namespace Sys2Proof.Machine

/-- An event that is no pulse adds no width. -/
theorem pulses_snoc_of_none {e : Event} (h : e.pulseWidth = none) (tr : List Event) : pulses (tr ++ [e]) = pulses tr := by
  simp [pulses, h]

/-- A pulse adds its width. -/
theorem pulses_snoc_pulse (w : Width) (tr : List Event) : pulses (tr ++ [.pulse w]) = pulses tr ++ [w] := by
  simp [pulses, Event.pulseWidth]

/-- A width adds no further pulse, and writes `run` and the error registers only by the block decoder's trap entry. -/
theorem runWidth_pulses_err {w : Width} {s t : State} (h : runWidth w s = .next t) :
    pulses t.trace = pulses s.trace ∧
      (t.run = s.run ∧ t.err = s.err ∨ t.run = .halt ∧ t.err.errCode ≠ .none ∧ t.err.errCode ≠ .cntOvf) := by
  unfold runWidth at h
  rw [runCls_eq, runCal_eq] at h
  split_ifs at h
  · obtain ⟨-, -, -, -, -, -, ⟨evs, htrace, -, hnone, -⟩, herr⟩ := runBlock_frame h
    refine ⟨?_, herr⟩
    rw [htrace, pulses_append, hnone, List.append_nil]
    exact pulses_snoc_of_none rfl _
  · cases h
    exact ⟨pulses_snoc_of_none rfl _, .inl ⟨rfl, rfl⟩⟩
  · cases h
    exact ⟨rfl, .inl ⟨rfl, rfl⟩⟩

/-- What a sample does at the edge detector: `prime`, `count`, overflow or edge (R112 to R115), with the pulses and the errors of
each. -/
inductive CountStep (v : Sample) (s t : State) : Prop where
  | prime (hp : s.ed.havePrev = false) (hed : t.ed = { havePrev := true, prev := v, cnt := s.ed.cnt })
      (hpulses : pulses t.trace = pulses s.trace) (hrun : t.run = s.run) (herr : t.err = s.err)
  | count (hp : s.ed.havePrev = true) (hed : t.ed = { havePrev := true, prev := v, cnt := s.ed.cnt + 1 })
      (hpulses : pulses t.trace = pulses s.trace) (hrun : t.run = s.run) (herr : t.err = s.err)
  | ovf (hp : s.ed.havePrev = true) (hm : s.ed.cnt = 2 ^ s.cfg.cntW - 1)
      (hed : t.ed = { havePrev := true, prev := v, cnt := s.ed.cnt })
      (hpulses : pulses t.trace = pulses s.trace) (hrun : t.run = .halt) (herr : t.err.errCode = .cntOvf)
  | edge (hp : s.ed.havePrev = true) (hq : qualifies s.cfg s.ed.prev v = true)
      (hed : t.ed = { havePrev := true, prev := v, cnt := 0 })
      (hpulses : pulses t.trace = pulses s.trace ++ [s.ed.cnt + 1])
      (herr : t.run = s.run ∧ t.err = s.err ∨ t.run = .halt ∧ t.err.errCode ≠ .none ∧ t.err.errCode ≠ .cntOvf)

/-- The units' work on a sample is one of those. -/
theorem runEdge_countStep {v : Sample} {s t : State} (h : runEdge v s = .next t) : CountStep v s t := by
  rw [runEdge_eq] at h
  split_ifs at h with hp hm hq
  · cases h
    exact .prime hp rfl rfl rfl rfl
  · cases h
    have hp' : s.ed.havePrev = true := by simpa using hp
    exact .ovf hp' (by simpa using hm) (by simp [← hp']) (pulses_snoc_of_none rfl _) rfl rfl
  · have hp' : s.ed.havePrev = true := by simpa using hp
    obtain ⟨hed, -⟩ := runWidth_frame h
    obtain ⟨hpulses, herr⟩ := runWidth_pulses_err h
    exact .edge hp' hq (by simp [hed, afterEdge, ← hp']) (hpulses.trans (pulses_snoc_pulse _ _)) herr
  · cases h
    have hp' : s.ed.havePrev = true := by simpa using hp
    exact .count hp' (by simp [← hp']) rfl rfl rfl

/-- Without an edge and below its maximum the counter counts the pair (R113). -/
theorem runEdge_of_count {v : Sample} {s : State} (hp : s.ed.havePrev = true) (hm : s.ed.cnt ≠ 2 ^ s.cfg.cntW - 1)
    (hq : ¬ qualifies s.cfg s.ed.prev v = true) : runEdge v s = .next (setPrev v (setCnt (s.ed.cnt + 1) s)) := by
  rw [runEdge_eq, if_neg (by simp [hp]), if_neg (by simpa using hm), if_neg hq]
  rfl

/-- The end of stream emits no pulse and moves neither the edge detector, the position nor the error registers (R118, R192). -/
theorem execEos_frame {s t : State} (h : execEos s = .next t) :
    pulses t.trace = pulses s.trace ∧ t.ed = s.ed ∧ t.pos = s.pos ∧ t.err = s.err ∧ t.cfg = s.cfg := by
  cases h
  exact ⟨pulses_snoc_of_none rfl _, rfl, rfl, rfl, rfl⟩

end Sys2Proof.Machine
end

section
/-! SUPPORT. The bounds on the pulse widths (spec/40_edge_detector.md R117) and the account of the samples (R120), kept by a sample. -/

namespace Sys2Proof.Machine

/-- A sample keeps the bounds: an edge needs a non-negative previous sample, so after a pulse at least one pair was counted before. -/
theorem pulseInv_execSample {v : Sample} {s t : State} (hg : s.cfg.Valid) (hs : PulseInv s) (h : execSample v s = .next t) :
    PulseInv t := by
  obtain ⟨u, hu, rfl⟩ := execSample_cases h
  obtain ⟨hone, htwo, hneg, hnone⟩ := hs
  unfold PulseInv
  rw [bumpPos_trace, bumpPos_ed]
  cases runEdge_countStep hu with
  | prime hp hed hpulses => simp [hed, hpulses, hnone hp]
  | count _ hed hpulses => simpa [hed, hpulses] using ⟨hone, htwo⟩
  | ovf _ hm hed hpulses =>
    have hcnt : s.ed.cnt ≠ 0 := by
      have : 2 ^ 7 ≤ 2 ^ s.cfg.cntW := Nat.pow_le_pow_right (by decide) (cntW_ge_of_valid hg)
      omega
    simpa [hed, hpulses, hcnt] using ⟨hone, htwo⟩
  | edge _ hq hed hpulses =>
    obtain ⟨-, hprev, hv⟩ := (qualifies_iff _ _ _).mp hq
    have hcnt : pulses s.trace ≠ [] → s.ed.cnt ≠ 0 := fun hne h0 => absurd (hneg hne h0) (not_lt.mpr hprev)
    rw [hpulses, hed]
    refine ⟨?_, ?_, fun _ _ => hv, by simp⟩
    · simpa [or_imp, forall_and] using hone
    · cases hps : pulses s.trace with
      | nil => simp
      | cons w ws =>
        have hlast := hcnt (by simp [hps])
        have htail : ∀ x ∈ ws, 2 ≤ x := by simpa [hps] using htwo
        intro x hx
        rcases List.mem_append.mp hx with hx | hx
        · exact htail x hx
        · obtain rfl := List.mem_singleton.mp hx
          change 2 ≤ s.ed.cnt + 1
          omega

/-- The samples accounted for by the priming sample, the widths, the pairs counted since, and the sample an overflow stopped at. -/
def accounted (ed : EdgeRegs) (ws : List Width) (code : ErrCode) : Nat :=
  (if ed.havePrev then 1 else 0) + ws.sum + ed.cnt + (if code = .cntOvf then 1 else 0)

/-- The account as an equation of its parts. -/
theorem sampleAccount_iff (s : State) : SampleAccount s ↔
    s.pos = accounted s.ed (pulses s.trace) s.err.errCode % 2 ^ s.cfg.posW ∧ (s.err.errCode ≠ .none → s.run ≠ .run) := Iff.rfl

/-- The units' work on a sample adds one sample to the account. -/
theorem accounted_runEdge {v : Sample} {s t : State} (hs : s.err.errCode = .none) (h : runEdge v s = .next t) :
    accounted t.ed (pulses t.trace) t.err.errCode = accounted s.ed (pulses s.trace) s.err.errCode + 1 := by
  unfold accounted
  cases runEdge_countStep h with
  | prime hp hed hpulses _ herr =>
    simp only [hp, hed, hpulses, herr, Bool.false_eq_true, if_true, if_false]
    omega
  | count hp hed hpulses _ herr =>
    simp only [hp, hed, hpulses, herr, if_true]
    omega
  | ovf hp _ hed hpulses _ herr => simp [hp, hed, hpulses, herr, hs]
  | edge hp _ hed hpulses herr =>
    have hcode : t.err.errCode ≠ .cntOvf := by
      rcases herr with ⟨-, herr⟩ | ⟨-, -, hovf⟩
      · simp [herr, hs]
      · exact hovf
    have hsum : (pulses t.trace).sum = (pulses s.trace).sum + (s.ed.cnt + 1) := by simp [hpulses]
    simp only [hp, hed, hsum, hs, hcode, reduceCtorEq, if_true, if_false]
    omega

/-- An error is recorded only by a machine that halts. -/
theorem runEdge_error_halts {v : Sample} {s t : State} (hs : s.err.errCode = .none) (h : runEdge v s = .next t)
    (ht : t.err.errCode ≠ .none) : t.run ≠ .run := by
  cases runEdge_countStep h with
  | prime _ _ _ _ herr | count _ _ _ _ herr => exact absurd (herr ▸ hs) ht
  | ovf _ _ _ _ hrun => simp [hrun]
  | edge _ _ _ _ herr =>
    rcases herr with ⟨-, herr⟩ | ⟨hrun, -⟩
    · exact absurd (herr ▸ hs) ht
    · simp [hrun]

/-- A machine that runs, with the account of its samples right, has recorded no error. -/
theorem errCode_of_running {s : State} (h : SampleAccount s) (hrun : s.run = .run) : s.err.errCode = .none := by
  by_contra herr
  exact h.2 herr hrun

/-- A sample keeps the account. -/
theorem sampleAccount_execSample {v : Sample} {s t : State} (hrun : s.run = .run) (hs : SampleAccount s)
    (h : execSample v s = .next t) : SampleAccount t := by
  obtain ⟨u, hu, rfl⟩ := execSample_cases h
  have hnone := errCode_of_running hs hrun
  obtain ⟨-, hpos, hcfg⟩ := runEdge_frame hu
  rw [sampleAccount_iff]
  refine ⟨?_, (runEdge_error_halts hnone hu :)⟩
  rw [bumpPos_pos, bumpPos_ed, bumpPos_trace, bumpPos_err, bumpPos_cfg, accounted_runEdge hnone hu, hpos, hcfg, hs.1,
    Nat.mod_add_mod]
  rfl

/-- The end of stream keeps the account. -/
theorem sampleAccount_execEos {s t : State} (hrun : s.run = .run) (hs : SampleAccount s) (h : execEos s = .next t) :
    SampleAccount t := by
  obtain ⟨hpulses, hed, hpos, herr, hcfg⟩ := execEos_frame h
  have hnone := errCode_of_running hs hrun
  rw [sampleAccount_iff, hpulses, hed, hpos, herr, hcfg]
  exact ⟨hs.1, fun hne => absurd hnone hne⟩

/-- No sample is accounted for after a reset. -/
theorem sampleAccount_resetWith (g : Config) : SampleAccount (State.resetWith g) :=
  ⟨(Nat.zero_mod _).symm, fun h => absurd rfl h⟩

/-- No pulse has been emitted after a reset. -/
theorem pulseInv_resetWith (g : Config) : PulseInv (State.resetWith g) := by
  simp [PulseInv, State.resetWith, pulses]

end Sys2Proof.Machine
end

section
/-! The edge detector over whole steps: the account of the samples and the bounds on the widths (spec/40_edge_detector.md R117, R120),
and which clock edges move the position (spec/10_state.md R22, R24). -/

namespace Sys2Proof.Machine

/-- Settles O17: a sample adds one to the account and to the position; the end of stream and a reset leave them equal. -/
theorem stepKeepsTheAccountOfSamples : Obligations.StepKeepsTheAccountOfSamples := by
  unfold Obligations.StepKeepsTheAccountOfSamples
  intro s t _ hs h
  exact step_keeps (Q := SampleAccount) (fun _ hs => hs) (fun s _ _ => sampleAccount_resetWith s.cfg)
    (fun _ _ _ _ _ => sampleAccount_execSample) (fun _ _ => sampleAccount_execEos) hs h

/-- Settles O16, by the operations a step can select. -/
theorem stepKeepsPulseWidthBounds : Obligations.StepKeepsPulseWidthBounds := by
  unfold Obligations.StepKeepsPulseWidthBounds
  intro s t _ hs h
  refine step_keeps (Q := PulseInv) (fun _ hs => hs) (fun s _ _ => pulseInv_resetWith s.cfg)
    (fun _ _ _ hg _ _ => pulseInv_execSample hg) (fun s t _ hs h => ?_) hs h
  obtain ⟨hpulses, hed, -⟩ := execEos_frame h
  rw [PulseInv, hpulses, hed]
  exact hs

end Sys2Proof.Machine
end

section
/-! SUPPORT. The samples of `P(w)` (spec/30_encoding.md R98): those that are counted, and the one that is an edge. What an
accepted sample does to the position and the previous sample (spec/10_state.md R22, R24). -/

namespace Sys2Proof.Machine

/-- A pair that does not qualify is counted, and the position moves on (R113, R191). -/
theorem execSample_of_count {v : Sample} {s : State} (hp : s.ed.havePrev = true) (hm : s.ed.cnt ≠ 2 ^ s.cfg.cntW - 1)
    (hq : ¬ qualifies s.cfg s.ed.prev v = true) :
    execSample v s = .next
      { s with ed := { havePrev := true, prev := v, cnt := s.ed.cnt + 1 }, pos := (s.pos + 1) % 2 ^ s.cfg.posW } := by
  rw [execSample_of_runEdge (runEdge_of_count hp hm hq), ← hp]
  rfl

/-- A high sample of `P(w)` is not negative, so it ends no pulse (R111). -/
theorem not_qualifies_amplitude (g : Config) (a : Sample) : ¬ qualifies g a amplitude = true := by
  simp [amplitude]

/-- The high samples of `P(w)` are counted one by one. -/
theorem runSamples_amplitude (n : Nat) {s : State} (hrun : s.run = .run) (hp : s.ed.havePrev = true)
    (hn : s.ed.cnt + (n + 1) < 2 ^ s.cfg.cntW) :
    runSamples (List.replicate (n + 1) amplitude) s = .next
      { s with ed := { havePrev := true, prev := amplitude, cnt := s.ed.cnt + (n + 1) },
               pos := (s.pos + (n + 1)) % 2 ^ s.cfg.posW } := by
  induction n generalizing s with
  | zero => simp [runSamples, hrun, execSample_of_count hp (by omega) (not_qualifies_amplitude _ _)]
  | succ n ih =>
    have hfirst := execSample_of_count hp (by omega) (not_qualifies_amplitude s.cfg s.ed.prev)
    rw [List.replicate_succ, runSamples, if_pos hrun, hfirst, andThen_next, ih]
    · simp only [Nat.mod_add_mod, Nat.add_assoc, Nat.add_comm 1 (n + 1)]
    · exact hrun
    · rfl
    · change s.ed.cnt + 1 + (n + 1) < 2 ^ s.cfg.cntW
      omega

/-- A pair that qualifies below a full counter is a pulse, whatever its width starts downstream (R114, R191). -/
theorem execSample_of_qualifies {v : Sample} {s : State} (hp : s.ed.havePrev = true) (hm : s.ed.cnt ≠ 2 ^ s.cfg.cntW - 1)
    (hq : qualifies s.cfg s.ed.prev v = true) :
    ∃ t, execSample v s = .next t ∧ pulses t.trace = pulses s.trace ++ [s.ed.cnt + 1] ∧
      t.ed = { havePrev := true, prev := v, cnt := 0 } ∧ t.pos = (s.pos + 1) % 2 ^ s.cfg.posW := by
  obtain ⟨u, hu⟩ := runWidth_next (edgeWidth s) (afterEdge v s)
  have hedge : decodeEdge (edgeWord s v) = some .edge := by simp [decodeEdge_edgeWord, hp, hm, hq]
  obtain ⟨hed, -⟩ := runWidth_frame hu
  obtain ⟨hpulses, -⟩ := runWidth_pulses_err hu
  exact ⟨_, execSample_of_edge hedge hu, hpulses.trans (pulses_snoc_pulse _ _), by simp [hed, afterEdge, ← hp], rfl⟩

/-- The samples of `P(w)`, `w >= 2`, after a previous sample with nothing counted: the `w - 1` high ones are counted, and the last one
falls by twice the amplitude. -/
theorem runSamples_pulseSamples (n : Nat) {s : State} (hrun : s.run = .run) (hp : s.ed.havePrev = true) (hcnt : s.ed.cnt = 0)
    (hthreshold : s.cfg.edgeThreshold < 6000) (hn : n + 2 < 2 ^ s.cfg.cntW) :
    ∃ t, runSamples (pulseSamples (n + 2)) s = .next t ∧ pulses t.trace = pulses s.trace ++ [n + 2] ∧
      t.ed = { havePrev := true, prev := -amplitude, cnt := 0 } ∧ t.pos = (s.pos + (n + 2)) % 2 ^ s.cfg.posW := by
  have hhigh := runSamples_amplitude n hrun hp (by omega)
  rw [hcnt, Nat.zero_add] at hhigh
  have hq : qualifies s.cfg amplitude (-amplitude) = true := by
    rw [qualifies_iff]
    exact ⟨hthreshold, by decide, by decide⟩
  obtain ⟨t, ht, hpulses, hed, hpos⟩ := execSample_of_qualifies (v := -amplitude)
    (s := { s with ed := { havePrev := true, prev := amplitude, cnt := n + 1 },
                   pos := (s.pos + (n + 1)) % 2 ^ s.cfg.posW }) rfl (by change n + 1 ≠ 2 ^ s.cfg.cntW - 1; omega) hq
  refine ⟨t, ?_, hpulses, hed, hpos.trans (Nat.mod_add_mod _ _ _)⟩
  have hlast : runSamples (pulseSamples (n + 2)) s = _ := runSamples_append hhigh hrun
  rw [hlast, runSamples, if_pos hrun, ht]
  rfl

/-- An accepted sample moves the position on by one and becomes the previous sample. -/
theorem execSample_position {v : Sample} {s t : State} (h : execSample v s = .next t) :
    t.pos = (s.pos + 1) % 2 ^ s.cfg.posW ∧ t.ed.prev = v ∧ t.ed.havePrev = true := by
  obtain ⟨u, hu, rfl⟩ := execSample_cases h
  obtain ⟨-, hpos, hcfg⟩ := runEdge_frame hu
  rw [bumpPos_pos, bumpPos_ed, hpos, hcfg]
  cases runEdge_countStep hu with
  | prime _ hed | count _ hed | ovf _ _ hed | edge _ _ hed => simp [hed]

end Sys2Proof.Machine
end

section
/-! A pulse made of samples (spec/30_encoding.md R98), and the clock edges that move the position (spec/10_state.md R22, R24). -/

namespace Sys2Proof.Machine

/-- Settles O18: the samples of `P(w)` with `w` as two more than the high samples after the first. -/
theorem macroPulseGivesExactlyOneWidth : Obligations.MacroPulseGivesExactlyOneWidth := by
  unfold Obligations.MacroPulseGivesExactlyOneWidth
  intro s w _ hrun hp _ hcnt hthreshold hw hmax
  obtain ⟨n, rfl⟩ := Nat.exists_eq_add_of_le' hw
  exact runSamples_pulseSamples n hrun hp hcnt hthreshold hmax

/-- Settles O50: of the operations a clock edge without `rst` can select, the two samples move the position. -/
theorem onlySamplesMoveThePosition : Obligations.OnlySamplesMoveThePosition := by
  unfold Obligations.OnlySamplesMoveThePosition
  intro s t _ h hrst
  cases step_cases_of_not_rst hrst h with
  | unchanged hc e =>
    subst e
    refine ⟨fun ⟨hv, hr⟩ => ?_, fun _ => ⟨rfl, rfl⟩⟩
    rcases hc with ⟨hv', -⟩ | hr'
    · simp [hv'] at hv
    · exact absurd hr hr'
  | eos _ hv _ e =>
    obtain ⟨-, hed, hpos, -⟩ := execEos_frame e
    exact ⟨by simp [hv], fun _ => ⟨hpos, hed⟩⟩
  | sample hr hv _ e => exact ⟨fun _ => execSample_position (s := advance s) e, fun hn => absurd ⟨hv, hr⟩ hn⟩
  | sampleEos hr hv _ e =>
    refine ⟨fun _ => ?_, fun hn => absurd ⟨hv, hr⟩ hn⟩
    obtain ⟨u, hu, hend⟩ := execSampleEos_cases e
    have hsample := execSample_position (s := advance s) hu
    rcases hend with ⟨-, he⟩ | ⟨-, rfl⟩
    · obtain ⟨-, hed, hpos, -⟩ := execEos_frame he
      rwa [hed, hpos]
    · exact hsample

end Sys2Proof.Machine
end

section
/-! SUPPORT. The phase of the trace (spec/20_memory.md R71, spec/43_block_decoder.md R178) followed event by event: what each unit
emits is allowed where it stands, and leaves a phase that agrees with the registers. -/

namespace Sys2Proof.Machine

/-- The phase after one more event. -/
theorem phase_snoc {p0 p q : TracePhase} {tr : List Event} {e : Event} (h : p0.run tr = some p) (he : p.next e = some q) :
    p0.run (tr ++ [e]) = some q := by
  induction tr generalizing p0 with
  | nil => cases h; simp [TracePhase.run, he]
  | cons e' tr ih =>
    obtain ⟨p1, he', htr⟩ := Option.bind_eq_some_iff.mp h
    exact Option.bind_eq_some_iff.mpr ⟨p1, he', ih htr⟩

/-- The trace stands in the phase, and the phase agrees with the registers: `TraceInv` but for the symbol that may be owed. -/
structure InPhase (p : TracePhase) (s : State) : Prop where
  phase : (TracePhase.start s.cfg).run s.trace = some p
  inBlock : p.inBlock = (s.bd.bdState == .read)
  calibrated : p.calibrated = s.cls.thValid
  ended : p.ended = (s.run != .run)

/-- The invariant of the trace names a phase. -/
theorem traceInv_iff (s : State) : TraceInv s ↔ ∃ p, InPhase p s ∧ p.owes = false :=
  ⟨fun ⟨p, hphase, hblock, hcal, hend, howes⟩ => ⟨p, ⟨hphase, hblock, hcal, hend⟩, howes⟩,
    fun ⟨p, ⟨hphase, hblock, hcal, hend⟩, howes⟩ => ⟨p, hphase, hblock, hcal, hend, howes⟩⟩

/-- A `FATAL` that the edge detector raises or that follows a `SYM` ends the session (R71, R215). -/
theorem traceInv_raiseFatal {p : TracePhase} {s : State} {code : ErrCode} {info : ErrInfo} (h : InPhase p s)
    (hend : p.ended = false) (howes : p.owes = false) (hcode : code = .cntOvf ∨ p.afterSym = true) :
    TraceInv (raiseFatal code info s) :=
  ⟨{ p with ended := true, afterSym := false }, phase_snoc h.phase (by simp [TracePhase.next, hend, howes, hcode]), h.inBlock,
    h.calibrated, rfl, howes⟩

/-- After a `SYM` the block decoder's event is the one its state allows: a block opens outside `READ`, a byte and an end lie in it. -/
theorem traceInv_runBlock {p : TracePhase} {c : SymCode} {w : Width} {s t : State} (h : InPhase p s) (hrun : s.run = .run)
    (howes : p.owes = false) (hafter : p.afterSym = true) (hr : runBlock c w s = .next t) : TraceInv t := by
  have hend : p.ended = false := by simp [h.ended, hrun]
  have hblock := h.inBlock
  cases runBlock_cases hr with
  | skip => exact ⟨p, h.phase, hblock, h.calibrated, h.ended, howes⟩
  | foundLong hb =>
    rw [hb] at hblock
    exact ⟨p, h.phase, hblock, h.calibrated, h.ended, howes⟩
  | start hb =>
    rw [hb] at hblock
    exact ⟨{ p with inBlock := true, afterSym := false },
      phase_snoc h.phase (by simp [TracePhase.next, hend, hafter, hblock]), rfl, h.calibrated, h.ended, howes⟩
  | latch | bit => exact ⟨p, h.phase, hblock, h.calibrated, h.ended, howes⟩
  | byte hb =>
    have hin : p.inBlock = true := by simp [hblock, hb]
    exact ⟨{ p with afterSym := false }, phase_snoc h.phase (by simp [TracePhase.next, hend, hafter, hin]), hblock,
      h.calibrated, h.ended, howes⟩
  | dataEnd hb =>
    have hin : p.inBlock = true := by simp [hblock, hb]
    exact ⟨{ p with inBlock := false, afterSym := false },
      phase_snoc h.phase (by simp [TracePhase.next, hend, hafter, hin]), rfl, h.calibrated, h.ended, howes⟩
  | fatal => exact traceInv_raiseFatal h hend howes (.inr hafter)

/-- A `PULSE` is allowed where no symbol is owed. -/
theorem inPhase_afterEdge {p : TracePhase} {v : Sample} {s : State} (h : InPhase p s) (hend : p.ended = false)
    (howes : p.owes = false) : InPhase { p with pending := some (edgeWidth s), afterSym := false } (afterEdge v s) :=
  ⟨phase_snoc h.phase (by simp [TracePhase.next, hend, howes]), h.inBlock, h.calibrated, h.ended⟩

/-- The units' work on a sample keeps the order of the trace and its agreement with the registers. -/
theorem traceInv_runEdge {v : Sample} {s t : State} (hrun : s.run = .run) (h : TraceInv s) (hr : runEdge v s = .next t) :
    TraceInv t := by
  obtain ⟨p, hp, howes⟩ := (traceInv_iff s).mp h
  have hend : p.ended = false := by simp [hp.ended, hrun]
  have hpulse := inPhase_afterEdge (v := v) hp hend howes
  cases runEdge_cases hr with
  | prime _ e | count _ _ _ e => subst e; exact h
  | ovf _ _ e =>
    subst e
    have hset : InPhase p (setPrev v s) := { hp with }
    exact traceInv_raiseFatal hset hend howes (.inl rfl)
  | collect _ _ _ hl _ e =>
    cases e
    have hcal : p.calibrated = false := hp.calibrated.trans hl
    exact ⟨_, hpulse.phase, hpulse.inBlock, hpulse.calibrated, hpulse.ended, by simp [TracePhase.owes, hcal]⟩
  | finish _ _ _ hl _ e =>
    cases e
    have hcal : p.calibrated = false := hp.calibrated.trans hl
    exact ⟨{ p with calibrated := true, pending := none, afterSym := false },
      phase_snoc hpulse.phase (by simp [TracePhase.next, hend, hcal]), hp.inBlock, rfl, hp.ended, rfl⟩
  | cls _ _ _ hl e =>
    have hcal : p.calibrated = true := hp.calibrated.trans hl
    have hsym : InPhase { p with pending := none, afterSym := true }
        (emit (.sym (classOf s (edgeWidth s)) (edgeWidth s)) (afterEdge v s)) :=
      ⟨phase_snoc hpulse.phase (by simp [TracePhase.next, hend, hcal]), hp.inBlock, hp.calibrated, hp.ended⟩
    exact traceInv_runBlock hsym hrun (by simp [TracePhase.owes]) rfl e

/-- A sample does so too: the position is no part of it. -/
theorem traceInv_execSample {v : Sample} {s t : State} (hrun : s.run = .run) (h : TraceInv s)
    (hr : execSample v s = .next t) : TraceInv t := by
  obtain ⟨u, hu, rfl⟩ := execSample_cases hr
  exact (traceInv_runEdge hrun h hu :)

/-- `DONE` reports the open block the trace shows, and ends the session (R192). -/
theorem traceInv_execEos {s t : State} (hrun : s.run = .run) (h : TraceInv s) (hr : execEos s = .next t) : TraceInv t := by
  obtain ⟨p, hp, howes⟩ := (traceInv_iff s).mp h
  have hend : p.ended = false := by simp [hp.ended, hrun]
  cases hr
  exact ⟨{ p with ended := true, afterSym := false },
    phase_snoc hp.phase (by simp [TracePhase.next, hend, howes, hp.inBlock, doneStatus]), hp.inBlock, hp.calibrated, rfl, howes⟩

/-- An empty trace agrees with the reset registers. -/
theorem traceInv_resetWith (g : Config) : TraceInv (State.resetWith g) :=
  ⟨TracePhase.start g, rfl, rfl, (clsReset_thValid g).symm, rfl, by simp [TracePhase.start, TracePhase.owes]⟩

end Sys2Proof.Machine
end

section
/-! SUPPORT. The events of one clock edge by the unit that emits them (spec/20_memory.md R72, spec/30_encoding.md R89). -/

namespace Sys2Proof.Machine

/-- A symbol after which the machine is not halted has raised no fatal error. -/
theorem runBlock_not_fatal {c : SymCode} {w : Width} {s t : State} {evs : List Event} (h : runBlock c w s = .next t)
    (hevs : t.out = s.out ++ evs) (ht : t.run ≠ .halt) : ∀ e ∈ evs, e.isFatal = false := by
  cases runBlock_cases h with
  | fatal => exact absurd rfl ht
  | skip | foundLong | latch | bit =>
    obtain rfl : evs = [] := by simpa using hevs
    simp
  | start | byte | dataEnd =>
    obtain rfl := List.append_cancel_left hevs
    simp [Event.isFatal]

/-- The events of a sample, level by level: a pulse, what the width gave, what the symbol gave (R72). -/
structure SampleEvents (s t : State) (p c b : List Event) : Prop where
  out_eq : t.out = s.out ++ (p ++ c ++ b)
  trace_eq : t.trace = s.trace ++ (p ++ c ++ b)
  pulse_le : p.length ≤ 1
  pulse : ∀ e ∈ p, e.pulseWidth ≠ none
  width_le : c.length ≤ p.length
  width : ∀ e ∈ c, e.isCalDone = true ∨ e.symbol ≠ none
  block_le : b.length ≤ 1
  block : ∀ e ∈ b, e.isBlockEvent = true
  not_fatal : t.run ≠ .halt → ∀ e ∈ b, e.isFatal = false

/-- The units' work on a sample emits at most one event of each level. -/
theorem runEdge_events {v : Sample} {s t : State} (h : runEdge v s = .next t) : ∃ p c b, SampleEvents s t p c b := by
  cases runEdge_cases h with
  | prime _ e | count _ _ _ e =>
    cases e
    exact ⟨[], [], [], by simp, by simp, by simp, by simp, by simp, by simp, by simp, by simp, by simp⟩
  | ovf _ _ e =>
    cases e
    exact ⟨[], [], [.fatal .cntOvf {} s.pos], rfl, rfl, by simp, by simp, by simp, by simp, by simp,
      by simp [Event.isBlockEvent, Event.isFatal], fun hn => absurd rfl hn⟩
  | collect _ _ _ _ _ e =>
    cases e
    exact ⟨[.pulse (edgeWidth s)], [], [], rfl, rfl, by simp, by simp [Event.pulseWidth], by simp, by simp, by simp, by simp,
      by simp⟩
  | finish _ _ _ _ _ e =>
    cases e
    exact ⟨[.pulse (edgeWidth s)], [.calDone (calReference (edgeWidth s) (afterEdge v s))], [],
      List.append_assoc s.out [_] [_], List.append_assoc s.trace [_] [_], by simp,
      by simp [Event.pulseWidth], by simp, by simp [Event.isCalDone], by simp, by simp, by simp⟩
  | cls _ _ _ _ e =>
    obtain ⟨-, -, -, -, -, -, ⟨evs, htrace, hout, -, hlen, hblock⟩, -⟩ := runBlock_frame e
    exact ⟨[.pulse (edgeWidth s)], [.sym (classOf s (edgeWidth s)) (edgeWidth s)], evs, by simp [hout, afterEdge],
      by simp [htrace, afterEdge], by simp, by simp [Event.pulseWidth], by simp, by simp [Event.symbol], hlen, hblock,
      runBlock_not_fatal e hout⟩

/-- So does a sample. -/
theorem execSample_events {v : Sample} {s t : State} (h : execSample v s = .next t) : ∃ p c b, SampleEvents s t p c b := by
  obtain ⟨u, hu, rfl⟩ := execSample_cases h
  obtain ⟨p, c, b, hev⟩ := runEdge_events hu
  exact ⟨p, c, b, { hev with }⟩

end Sys2Proof.Machine
end

section
/-! The events of a step and their order (spec/20_memory.md R71, R72, spec/43_block_decoder.md R178, spec/41_leader_calibrator.md
R135). -/

namespace Sys2Proof.Machine

/-- Settles O54, by the operations a step can select: each event of a sample is allowed where it stands, and so is `DONE`. -/
theorem stepKeepsTheTraceInvariant : Obligations.StepKeepsTheTraceInvariant := by
  unfold Obligations.StepKeepsTheTraceInvariant
  intro s t _ h hstep
  exact step_keeps (Q := TraceInv) (fun _ h => h) (fun s _ _ => traceInv_resetWith s.cfg)
    (fun _ _ _ _ _ hrun => traceInv_execSample hrun) (fun _ _ => traceInv_execEos) h hstep

/-- Settles O49: a reset emits nothing; every other edge emits the events of at most one sample, then `DONE` if it did not halt. -/
theorem eventsOfOneClockEdge : Obligations.EventsOfOneClockEdge := by
  unfold Obligations.EventsOfOneClockEdge
  intro s t h
  cases hrst : (nextCycle s).rst with
  | true =>
    rw [step_of_rst (step_cases h).1 hrst] at h
    cases h
    exact ⟨[], [], [], [], by simp⟩
  | false =>
    cases step_cases_of_not_rst hrst h with
    | unchanged _ e =>
      subst e
      exact ⟨[], [], [], [], by simp⟩
    | eos _ _ he e =>
      cases e
      exact ⟨[], [], [], [_], rfl, by simp, by simp, by simp, by simp, by simp, by simp, by simp, by simp [he, Event.isDone],
        by simp, by simp⟩
    | sample _ _ _ e =>
      obtain ⟨p, c, b, hev⟩ := execSample_events e
      have hout : t.out = p ++ c ++ b := by simpa using hev.out_eq
      refine ⟨p, c, b, [], by simp [hout], hev.pulse_le, hev.pulse, hev.width_le, hev.width, hev.block_le, hev.block, by simp,
        by simp, by simp, fun _ => ?_⟩
      rw [hout]
      exact hev.trace_eq
    | sampleEos _ _ he e =>
      obtain ⟨u, hu, hend⟩ := execSampleEos_cases e
      obtain ⟨p, c, b, hev⟩ := execSample_events hu
      have hout : u.out = p ++ c ++ b := by simpa using hev.out_eq
      have htrace : u.trace = s.trace ++ u.out := hout ▸ hev.trace_eq
      rcases hend with ⟨hr, hdone⟩ | ⟨-, rfl⟩
      · cases hdone
        exact ⟨p, c, b, [_], by simp only [emit_out, hout]; rfl, hev.pulse_le, hev.pulse, hev.width_le, hev.width, hev.block_le,
          hev.block, by simp, by simp [he, Event.isDone], fun _ => hev.not_fatal (by simp [hr]), fun _ => by simp [htrace]⟩
      · exact ⟨p, c, b, [], by simp [hout], hev.pulse_le, hev.pulse, hev.width_le, hev.width, hev.block_le, hev.block, by simp,
          by simp, by simp, fun _ => htrace⟩

/-- Settles O24: with the thresholds not loaded, the branch of R191 that classifies is not taken. -/
theorem calibrationPulsesAreNotClassified : Obligations.CalibrationPulsesAreNotClassified := by
  unfold Obligations.CalibrationPulsesAreNotClassified
  intro s t v hl h
  obtain ⟨u, hu, rfl⟩ := execSample_cases h
  cases runEdge_cases hu with
  | prime _ e | count _ _ _ e => cases e; exact ⟨rfl, [], by simp, by simp⟩
  | ovf _ _ e | collect _ _ _ _ _ e => cases e; exact ⟨rfl, [_], rfl, by simp [Event.symbol, Event.byteValue]⟩
  | finish _ _ _ _ _ e =>
    cases e
    exact ⟨rfl, [.pulse _, .calDone _], List.append_assoc s.trace [_] [_], by simp [Event.symbol, Event.byteValue]⟩
  | cls _ _ _ ht => simp [hl] at ht

end Sys2Proof.Machine
end

section
/-! SUPPORT. What every operation leaves alone (spec/10_state.md R41), the operation of a quiet clock edge (spec/44_top_level.md R194),
and that the operation of a clock edge always answers (spec/60_exceptions.md R212). -/

namespace Sys2Proof.Machine

/-- The units' work on a sample writes neither the configuration nor the inputs to come. -/
theorem runEdge_cfg_stim {v : Sample} {s t : State} (h : runEdge v s = .next t) : t.cfg = s.cfg ∧ t.stim = s.stim := by
  cases runEdge_cases h with
  | prime _ e | ovf _ _ e | count _ _ _ e | collect _ _ _ _ _ e | finish _ _ _ _ _ e => cases e; exact ⟨rfl, rfl⟩
  | cls _ _ _ _ e =>
    obtain ⟨-, -, -, -, hcfg, hstim, -⟩ := runBlock_frame e
    exact ⟨hcfg, hstim⟩

/-- Nor does a sample. -/
theorem execSample_cfg_stim {v : Sample} {s t : State} (h : execSample v s = .next t) : t.cfg = s.cfg ∧ t.stim = s.stim := by
  obtain ⟨u, hu, rfl⟩ := execSample_cases h
  exact (runEdge_cfg_stim hu :)

/-- Everything the byte marker can do (R169): the trap entry with a code of the block decoder's own, or a byte. -/
theorem exec_bdByteEnd_cases {s t : State} (h : exec .bdByteEnd s = .next t) :
    (∃ code info, code ≠ .none ∧ code ≠ .cntOvf ∧ t = raiseFatal code info s) ∨
      t = setPh false (clearAcc (emit (.byte (accByte s.bd.acc)) s)) := by
  simp only [exec, execBdByteEnd] at h
  split_ifs at h <;> cases h
  · exact .inl ⟨_, _, by simp, by simp, rfl⟩
  · exact .inl ⟨_, _, by simp, by simp, rfl⟩
  · exact .inl ⟨_, _, by simp, by simp, rfl⟩
  · exact .inr rfl

/-- A clock edge without an input event is `IDLE` (R90). -/
theorem edgeInstr_of_quiet {s : State} (h : (nextCycle s).active = false) : edgeInstr s = .idle := by
  simp only [Cycle.active, Bool.or_eq_false_iff] at h
  obtain ⟨⟨hrst, hsample⟩, heos⟩ := h
  simp [edgeInstr, hrst, hsample, heos]

/-- A step without an input event only takes its inputs (R194). -/
theorem step_of_quiet {s : State} (hv : s.cfg.Valid) (h : (nextCycle s).active = false) : step s = .next (advance s) := by
  rw [step_eq hv, edgeInstr_of_quiet h]
  rfl

/-- The operation a clock edge selects answers a next state in every state. -/
theorem exec_edgeInstr_next (s u : State) : ∃ t, exec (edgeInstr s) u = .next t := by
  simp only [edgeInstr]
  split_ifs
  · exact ⟨_, rfl⟩
  · exact ⟨_, rfl⟩
  · exact ⟨_, rfl⟩
  · exact ⟨_, rfl⟩
  · obtain ⟨t, ht⟩ := execSample_next (portSample s.cfg (nextCycle s).sample) u
    have heq := execSampleEos_eq ht
    split_ifs at heq
    · exact ⟨_, heq⟩
    · exact ⟨_, heq⟩
  · exact execSample_next _ _

end Sys2Proof.Machine
end

section
/-! Reset, the clock edge and the quiet cycle (spec/44_top_level.md R190, R193, R194, spec/00_scope.md R6 to R8). -/

namespace Sys2Proof.Machine

/-- Settles O5: the operation of the edge answers whatever it is, and outside R8 the step does not run it. -/
theorem everyStepAnswersInAValidConfiguration : Obligations.EveryStepAnswersInAValidConfiguration := by
  unfold Obligations.EveryStepAnswersInAValidConfiguration
  refine ⟨fun s hv => ?_, fun s hv => if_neg hv⟩
  rw [step_eq hv]
  exact exec_edgeInstr_next s _

/-- Settles O1: the row `1xxxx`, and the reset registers field by field. -/
theorem resetLoadsEveryRegister : Obligations.ResetLoadsEveryRegister := by
  unfold Obligations.ResetLoadsEveryRegister
  have hrow : ∀ x : BitVec 4, decodeTop (0b1#1 ++ x) = some .reset := by decide
  refine ⟨fun x v => decode_top (hrow x) v, fun s => ⟨resetRegisters s, rfl, rfl, rfl, rfl, fun hb => ?_, fun hb => ?_, rfl, rfl,
    rfl, rfl, rfl, rfl, rfl⟩⟩
  · simp [ClsRegs.reset, hb]
  · rw [resetRegisters_cls, clsReset_of_bypass hb]
    exact ⟨rfl, rfl, rfl, rfl, rfl, fun hk => thresholdsOf_source hk s.cfg.s0Preset⟩

/-- Settles O2: the defaults, and the reset registers in the default configuration. -/
theorem resetStateHasTheDefaultConfiguration : Obligations.ResetStateHasTheDefaultConfiguration := by
  unfold Obligations.ResetStateHasTheDefaultConfiguration
  refine ⟨rfl, by decide, fun s hcfg hstim => ?_⟩
  simp only [exec, execReset, resetRegisters, hcfg, hstim]
  rfl

/-- Settles O3: the word of the edge decodes to the operation the step runs. -/
theorem stepRunsTheDecodedOperation : Obligations.StepRunsTheDecodedOperation := by
  unfold Obligations.StepRunsTheDecodedOperation
  refine ⟨fun _ => rfl, fun s => ⟨_, decode_nextWord s⟩, fun s i hv hi => ?_⟩
  obtain rfl : edgeInstr s = i := Except.ok.inj ((decode_nextWord s).symm.trans hi)
  exact step_eq hv

/-- Settles O6: the rows `000xx`, and the step that only takes its inputs. -/
theorem idleChangesNothing : Obligations.IdleChangesNothing := by
  unfold Obligations.IdleChangesNothing
  have hrow : ∀ r : BitVec 2, decodeTop (0b000#3 ++ r) = some .idle := by decide
  exact ⟨fun r v => decode_top (hrow r) v, fun _ => rfl,
    fun s hv hquiet => ⟨advance s, step_of_quiet hv hquiet, by simp [SameMachine], rfl⟩⟩

end Sys2Proof.Machine
end

section
/-! What the operations leave alone: the configuration (spec/10_state.md R41), the other units' registers (R47), and the error
registers (spec/60_exceptions.md R212). -/

namespace Sys2Proof.Machine

/-- Settles O48, operation by operation; the samples by their units. -/
theorem configurationIsNeverWritten : Obligations.ConfigurationIsNeverWritten := by
  unfold Obligations.ConfigurationIsNeverWritten
  intro i s t h
  cases i with
  | sample v => exact execSample_cfg_stim h
  | sampleEos v =>
    obtain ⟨u, hu, ⟨-, he⟩ | ⟨-, rfl⟩⟩ := execSampleEos_cases h
    · cases he
      exact (execSample_cfg_stim hu :)
    · exact execSample_cfg_stim hu
  | bdByteEnd =>
    rcases exec_bdByteEnd_cases h with ⟨code, info, -, -, rfl⟩ | rfl
    · exact ⟨rfl, rfl⟩
    · exact ⟨rfl, rfl⟩
  | _ => cases h; exact ⟨rfl, rfl⟩

/-- Settles O45, operation by operation: of those named none is left, and of the others `EOS` and a reset write `run`. -/
theorem noOtherOperationFaults : Obligations.NoOtherOperationFaults := by
  unfold Obligations.NoOtherOperationFaults
  intro i s t h hsample hsymbol hmarker
  cases i with
  | sample v => exact absurd rfl (hsample v).1
  | sampleEos v => exact absurd rfl (hsample v).2.1
  | edOvf v => exact absurd rfl (hsample v).2.2
  | bdErrExpectedM c w => exact absurd rfl (hsymbol c w).1
  | bdBadPair c w => exact absurd rfl (hsymbol c w).2
  | bdByteEnd => exact absurd rfl hmarker
  | reset => cases h; simp
  | eos => cases h; simp
  | _ => cases h; exact ⟨fun hhalt => ⟨hhalt, by simp⟩, fun _ => rfl⟩

/-- Settles O47, unit by unit: the trap entry is the only write of a top-level register. -/
theorem operationsWriteTheirOwnUnitOnly : Obligations.OperationsWriteTheirOwnUnitOnly := by
  unfold Obligations.OperationsWriteTheirOwnUnitOnly
  intro i s t h
  cases i with
  | reset | idle | sample | sampleEos | eos | ignore => simp [encode, SelWord.tag]
  | edPrime | edCount | edEdge | edOvf => cases h; simp [encode, SelWord.tag]
  | calCollect | calFinish => cases h; simp [encode, SelWord.tag, calComplete]
  | pcShort | pcMedium | pcLong | pcUnknown => cases h; simp [encode, SelWord.tag, emitSym]
  | bdSkip | bdFoundLong | bdStart | bdErrExpectedM | bdLatch | bdBit0 | bdBit1 | bdDataEnd | bdBadPair =>
    cases h; simp [encode, SelWord.tag]
  | bdByteEnd =>
    rcases exec_bdByteEnd_cases h with ⟨code, info, hcode, hovf, rfl⟩ | rfl
    · simp [encode, SelWord.tag, hcode, hovf]
    · simp [encode, SelWord.tag]

end Sys2Proof.Machine
end

section
/-! The invariants over whole sessions (spec/10_state.md R45, R46). -/

namespace Sys2Proof.Machine

/-- Settles O56: the reset registers meet each of the four. -/
theorem resetMeetsTheInvariants : Obligations.ResetMeetsTheInvariants := by
  unfold Obligations.ResetMeetsTheInvariants
  exact fun g hg => ⟨inv_resetWith hg, traceInv_resetWith g, pulseInv_resetWith g, sampleAccount_resetWith g⟩

/-- Settles O55, by induction over how the state is reached: a reset establishes the four (O56), inputs do not matter to them, and a
step keeps them (O53, O54, O16, O17). -/
theorem everyReachableStateMeetsTheInvariants : Obligations.EveryReachableStateMeetsTheInvariants := by
  unfold Obligations.EveryReachableStateMeetsTheInvariants
  intro s h
  induction h with
  | reset g hg => exact resetMeetsTheInvariants g hg
  | inputs s cs _ ih =>
    obtain ⟨hinv, htrace, hpulse, haccount⟩ := ih
    exact ⟨{ hinv with }, htrace, hpulse, haccount⟩
  | edge s t _ e ih =>
    obtain ⟨hinv, htrace, hpulse, haccount⟩ := ih
    exact ⟨stepKeepsTheStateInvariant s t hinv e, stepKeepsTheTraceInvariant s t hinv htrace e,
      stepKeepsPulseWidthBounds s t hinv hpulse e, stepKeepsTheAccountOfSamples s t hinv haccount e⟩

end Sys2Proof.Machine
end

section
/-! SUPPORT. The rank statistic by counting (spec/70_reset_and_hazards.md R237), and the comparisons with the thresholds as orders
of the width (spec/42_pulse_classifier.md section 1). -/

namespace Sys2Proof.Machine

/-- In an ascending list a downward closed property holds of the element of rank `k` exactly when more than `k` elements have it. -/
theorem lt_countP_iff {p : Nat → Bool} (hp : ∀ a b, a ≤ b → p b = true → p a = true) :
    ∀ {l : List Nat}, l.Pairwise (· ≤ ·) → ∀ {k : Nat} (hk : k < l.length), k < l.countP p ↔ p l[k] = true
  | a :: l, hs, k, hk => by
    obtain ⟨hle, hl⟩ := List.pairwise_cons.mp hs
    cases ha : p a with
    | true =>
      rw [List.countP_cons_of_pos ha]
      cases k with
      | zero => simp [ha]
      | succ k =>
        have ih := lt_countP_iff hp hl (Nat.lt_of_succ_lt_succ hk)
        simpa using ih
    | false =>
      have hnone : ∀ b ∈ a :: l, p b = false := by
        intro b hb
        rcases List.mem_cons.mp hb with rfl | hb
        · exact ha
        · exact Bool.eq_false_iff.mpr fun hpb => by simp [hp a b (hle b hb) hpb] at ha
      have hzero : (a :: l).countP p = 0 := List.countP_eq_zero.mpr fun b hb => by simp [hnone b hb]
      simp [hzero, hnone _ (List.getElem_mem hk)]

/-- The rank statistic has a downward closed property exactly when more than `CAL_RANK` of the widths have it. -/
theorem calRank_lt_countP_iff {g : Config} {buf : List Width} (h : g.calRank < buf.length) {p : Nat → Bool}
    (hp : ∀ a b, a ≤ b → p b = true → p a = true) : g.calRank < buf.countP p ↔ p (rankStatistic g buf) = true := by
  have hlen : g.calRank < (sortAsc buf).length := by rwa [(sortAsc_perm buf).length_eq]
  have hget : (sortAsc buf)[g.calRank] = rankStatistic g buf := (List.getElem_eq_iff hlen).mpr (sortAsc_getElem?_calRank h)
  rw [← (sortAsc_perm buf).countP_eq p, ← hget]
  exact lt_countP_iff hp (sortAsc_ordered buf) hlen

/-- R147: `lt_s` compares the scaled width with the first threshold. -/
@[simp] theorem ltS_iff (s : State) (w : Width) : ltS s w = true ↔ s.cfg.kDen * w < s.cls.thS := decide_eq_true_iff

/-- R147: `lt_m` compares it with the second. -/
@[simp] theorem ltM_iff (s : State) (w : Width) : ltM s w = true ↔ s.cfg.kDen * w < s.cls.thM := decide_eq_true_iff

/-- R147: `lt_l` compares it with the third. -/
@[simp] theorem ltL_iff (s : State) (w : Width) : ltL s w = true ↔ s.cfg.kDen * w < s.cls.thL := decide_eq_true_iff

/-- A comparison of hundredths of integers is the comparison with the rational (R146). -/
theorem hundredths_lt_iff (w r k : Nat) : 100 * w < k * r ↔ (w : ℚ) < r * (k / 100) := by
  rw [← Nat.cast_lt (α := ℚ)]
  push_cast
  constructor <;> intro h <;> linarith

/-- The result codes of the map R93 grow from `Short` to `Unknown`, so a word with fewer comparisons that hold has no smaller one. -/
theorem clsCode_le : ∀ a b c a' b' c' : Bool, (a' = true → a = true) → (b' = true → b = true) → (c' = true → c = true) →
    ∀ o o' : PcOp, decodeCls (BitVec.ofBool a ++ BitVec.ofBool b ++ BitVec.ofBool c) = some o →
      decodeCls (BitVec.ofBool a' ++ BitVec.ofBool b' ++ BitVec.ofBool c') = some o' →
      o.code.bits.toNat ≤ o'.code.bits.toNat := by
  intro a b c a' b' c' ha hb hc o o' ho ho'
  rw [decodeCls_bits] at ho ho'
  cases ho
  cases ho'
  revert a b c a' b' c'
  decide

end Sys2Proof.Machine
end

section
/-! The reference width (spec/41_leader_calibrator.md R133, spec/70_reset_and_hazards.md R237) and the classifier's comparisons
(spec/42_pulse_classifier.md R146, R147, R152, R153, spec/30_encoding.md R93). -/

namespace Sys2Proof.Machine

/-- Settles O22: `x` is the statistic when the statistic is not below `x` and not above it, each a count by its rank. -/
theorem referenceWidthIsTheRankStatistic : Obligations.ReferenceWidthIsTheRankStatistic := by
  unfold Obligations.ReferenceWidthIsTheRankStatistic
  refine fun g buf h => ⟨fun x => ?_, fun buf' hperm => congrArg (List.getD · _ _) (sortAsc_eq_of_perm hperm)⟩
  have hlt := calRank_lt_countP_iff h (p := fun w => decide (w < x))
    fun _ _ hab hb => decide_eq_true (hab.trans_lt (of_decide_eq_true hb))
  have hle := calRank_lt_countP_iff h (p := fun w => decide (w ≤ x))
    fun _ _ hab hb => decide_eq_true (hab.trans (of_decide_eq_true hb))
  rw [hle, ← not_lt, hlt, decide_eq_true_iff, decide_eq_true_iff, not_lt]
  exact ⟨fun hx => ⟨hx.ge, hx.le⟩, fun ⟨hge, hle⟩ => le_antisymm hle hge⟩

/-- Settles O26: the word and the map R93 read from the comparisons. -/
theorem classifierSelection : Obligations.ClassifierSelection := by
  unfold Obligations.ClassifierSelection
  have hsel : ∀ (s : State) (w : Width), decode (.cls (clsWord s w) w) =
      .ok (if s.cfg.kDen * w < s.cls.thS then .pcShort w
        else if s.cfg.kDen * w < s.cls.thM then .pcMedium w
        else if s.cfg.kDen * w < s.cls.thL then .pcLong w
        else .pcUnknown w) := by
    intro s w
    rw [decode_cls (decodeCls_clsWord s w)]
    simp only [ltS_iff, ltM_iff, ltL_iff]
    split_ifs <;> rfl
  refine ⟨fun _ _ => rfl, hsel, fun s w hk => ?_, rfl, rfl, rfl, rfl⟩
  obtain ⟨-, -, -, hden⟩ := hk
  rw [← hden]
  exact hsel s w

/-- Settles O27: with the thresholds loaded each comparison is one of hundredths. -/
theorem comparatorsAreTheRationalComparisons : Obligations.ComparatorsAreTheRationalComparisons := by
  unfold Obligations.ComparatorsAreTheRationalComparisons
  intro s w h hl hk
  obtain ⟨hS, hM, hL⟩ := h.loaded_source hl hk
  obtain ⟨-, -, -, hden⟩ := hk
  have hS' : (w : ℚ) < s.cls.s0 * (11 / 10) ↔ 100 * w < s.cls.thS := by
    rw [hS, hundredths_lt_iff]; norm_num
  have hM' : (w : ℚ) < s.cls.s0 * (11 / 10) * (14 / 10) ↔ 100 * w < s.cls.thM := by
    rw [hM, hundredths_lt_iff, mul_assoc]; norm_num
  have hL' : (w : ℚ) < s.cls.s0 * (11 / 10) * (19 / 10) ↔ 100 * w < s.cls.thL := by
    rw [hL, hundredths_lt_iff, mul_assoc]; norm_num
  rw [hS', hM', hL', ltS_iff, ltM_iff, ltL_iff, hden]
  simp

/-- Settles O28: the thresholds are in order, so a comparison that holds makes the later ones hold. -/
theorem onlyThermometerWordsOccur : Obligations.OnlyThermometerWordsOccur := by
  unfold Obligations.OnlyThermometerWordsOccur
  intro s w h hl
  obtain ⟨hSM, hML⟩ := h.ordered hl
  have hM : ltS s w = true → ltM s w = true := by simpa using fun hlt : _ < _ => hlt.trans hSM
  have hL : ltM s w = true → ltL s w = true := by simpa using fun hlt : _ < _ => hlt.trans hML
  unfold clsWord
  generalize ltS s w = a at hM ⊢
  generalize ltM s w = b at hM hL ⊢
  generalize ltL s w = c at hL ⊢
  revert a b c
  decide

/-- Settles O29: a comparison that holds of the larger width holds of the smaller one. -/
theorem classificationIsMonotone : Obligations.ClassificationIsMonotone := by
  unfold Obligations.ClassificationIsMonotone
  intro s w1 w2 o1 o2 hw h1 h2
  have hscaled : s.cfg.kDen * w1 ≤ s.cfg.kDen * w2 := Nat.mul_le_mul_left _ hw.le
  exact clsCode_le _ _ _ _ _ _ (by simpa using hscaled.trans_lt) (by simpa using hscaled.trans_lt)
    (by simpa using hscaled.trans_lt) o1 o2 h1 h2

end Sys2Proof.Machine
end

section
/-! SUPPORT. What a symbol does in each state of the block decoder (spec/43_block_decoder.md R179), by the operation R94 selects. -/

namespace Sys2Proof.Machine

/-- The symbol outside `READ`, and the first one of a pair, whatever symbol is held. -/
theorem runBlock_of_state {b : BdState} {ph : Bool} {c : SymCode} {w : Width} {s : State} {o : BdOp} (hb : s.bd.bdState = b)
    (hp : s.bd.ph = ph) (ho : blockOp b ph s.bd.hCode c = o) : runBlock c w s = exec (o.instr c w) s := by
  rw [runBlock_eq, hb, hp, ho]

/-- The byte marker after anything but nine bits of odd parity is the trap entry (R207, R208, R210). -/
theorem exec_bdByteEnd_fatal {s : State} (h : ¬ (s.bd.nbits.val = 9 ∧ parOk s.bd.acc = true)) :
    ∃ code info, exec .bdByteEnd s = .next (raiseFatal code info s) := by
  have hmax : s.bd.nbits.val < 11 := s.bd.nbits.isLt
  rcases Nat.lt_trichotomy s.bd.nbits.val 9 with hn | hn | hn
  · exact ⟨_, _, exec_bdByteEnd_of_few hn⟩
  · have hp : parOk s.bd.acc = false := by simpa [hn] using h
    exact ⟨_, _, exec_bdByteEnd_of_parity_even hn hp⟩
  · exact ⟨_, _, exec_bdByteEnd_of_many (by omega)⟩

/-- The symbols that raise a fatal error (last rows of R179), with the conditions of each. -/
theorem runBlock_fatal {c : SymCode} {w : Width} {s : State}
    (h : (s.bd.bdState = .expect ∧ c ≠ .medium) ∨
      (s.bd.bdState = .read ∧ s.bd.ph = true ∧ s.bd.hCode = .long ∧ c = .medium ∧
        ¬ (s.bd.nbits.val = 9 ∧ parOk s.bd.acc = true)) ∨
      (s.bd.bdState = .read ∧ s.bd.ph = true ∧ ¬ (s.bd.hCode = .short ∧ c = .medium) ∧
        ¬ (s.bd.hCode = .medium ∧ c = .short) ∧ ¬ (s.bd.hCode = .long ∧ (c = .medium ∨ c = .short)))) :
    ∃ code info, runBlock c w s = .next (raiseFatal code info s) := by
  rcases h with ⟨hb, hc⟩ | ⟨hb, hp, ha, rfl, hbits⟩ | ⟨hb, hp, hbit0, hbit1, hmarker⟩
  · exact ⟨_, _, runBlock_of_state hb rfl (if_neg hc)⟩
  · obtain ⟨code, info, hexec⟩ := exec_bdByteEnd_fatal hbits
    have ho : blockOp .read true s.bd.hCode .medium = .byteEnd := by rw [ha]; rfl
    exact ⟨code, info, (runBlock_of_state hb hp ho).trans hexec⟩
  · have hillegal : blockOp .read true s.bd.hCode c = .badPair := by
      apply blockOp_illegalPair
      simp only [List.mem_cons, Prod.mk.injEq, List.not_mem_nil, or_false]
      tauto
    exact ⟨_, _, runBlock_of_state hb hp hillegal⟩

/-- A bit's pair completed (R166, R167): only the accumulator and the phase are written. -/
theorem runBlock_bit {c : SymCode} {w : Width} {s : State} (hb : s.bd.bdState = .read) (hp : s.bd.ph = true)
    (hc : (s.bd.hCode = .short ∧ c = .medium) ∨ (s.bd.hCode = .medium ∧ c = .short)) :
    ∃ bit, runBlock c w s = .next (setPh false (appendBit bit s)) := by
  rcases hc with ⟨ha, rfl⟩ | ⟨ha, rfl⟩
  · exact ⟨false, runBlock_of_state (o := .bit0) hb hp (by rw [ha]; rfl)⟩
  · exact ⟨true, runBlock_of_state (o := .bit1) hb hp (by rw [ha]; rfl)⟩

/-- The byte marker after nine bits of odd parity (R169). -/
theorem runBlock_byte {w : Width} {s : State} (hb : s.bd.bdState = .read) (hp : s.bd.ph = true) (ha : s.bd.hCode = .long)
    (hn : s.bd.nbits.val = 9) (hodd : parOk s.bd.acc = true) :
    runBlock .medium w s = .next (setPh false (clearAcc (emit (.byte (accByte s.bd.acc)) s))) := by
  have ho : blockOp .read true s.bd.hCode .medium = .byteEnd := by rw [ha]; rfl
  exact (runBlock_of_state hb hp ho).trans (exec_bdByteEnd_of_parity_odd hn hodd)

end Sys2Proof.Machine
end

section
/-! The transitions of the block decoder (spec/43_block_decoder.md R179). -/

namespace Sys2Proof.Machine

/-- Settles O39: each row from the operation its conditions select. -/
theorem symbolTransitionTable : Obligations.SymbolTransitionTable := by
  unfold Obligations.SymbolTransitionTable
  intro s c w
  obtain ⟨t, ht⟩ := runBlock_next c w s
  have hanswer : ∀ {u}, runBlock c w s = .next u → t = u := fun hu => Host.Outcome.next.inj (ht.symm.trans hu)
  simp only [← parOk_iff]
  refine ⟨t, ht, fun hb hc => ?_, fun hb hc => ?_, fun hb hc => ?_, fun hb hp => ?_, fun hb hp hc => ?_,
    fun hb hp ha hc hn hodd => ?_, fun hb hp ha hc => ?_, fun h => ?_⟩
  · exact hanswer (runBlock_of_state hb rfl (if_neg hc))
  · obtain rfl := hanswer (runBlock_of_state hb rfl (if_pos hc))
    exact ⟨rfl, rfl⟩
  · obtain rfl := hanswer (runBlock_of_state hb rfl (if_pos hc))
    exact ⟨rfl, rfl, rfl⟩
  · obtain rfl := hanswer (runBlock_of_state hb hp rfl)
    exact ⟨hb, rfl, rfl⟩
  · obtain ⟨bit, hu⟩ := runBlock_bit hb hp hc
    obtain rfl := hanswer hu
    exact ⟨hb, rfl, rfl⟩
  · subst hc
    obtain rfl := hanswer (runBlock_byte hb hp ha hn hodd)
    exact ⟨hb, rfl, _, rfl⟩
  · subst hc
    obtain rfl := hanswer (runBlock_of_state (o := .dataEnd) hb hp (by rw [ha]; rfl))
    exact ⟨rfl, rfl⟩
  · obtain ⟨code, info, hu⟩ := runBlock_fatal (w := w) h
    obtain rfl := hanswer hu
    exact ⟨rfl, rfl, code, info, rfl⟩

end Sys2Proof.Machine
end

section
/-! SUPPORT. The sequences of spec/30_encoding.md R98 on the block decoder: the start marker, a pair for each bit, the byte marker; and
the ones of a byte with its parity bit (spec/43_block_decoder.md R170). -/

namespace Sys2Proof.Machine

/-- A symbol while the machine runs, then the others. -/
theorem runSymbols_cons {c : SymCode} {w : Width} {l : Symbols} {s t : State} (hrun : s.run = .run)
    (h : runBlock c w s = .next t) : runSymbols ((c, w) :: l) s = runSymbols l t := by
  rw [runSymbols, if_pos hrun, h]
  rfl

/-- `START` in the search for a leader opens a block with an empty accumulator (R162, R163). -/
theorem runSymbols_startMarker {s : State} (hrun : s.run = .run) (hb : s.bd.bdState = .seek) :
    runSymbols startMarker s = .next (emit .blockStart (clearAcc (setPh false (setBdState .read s)))) := by
  have hlong : runBlock .long 0 s = .next (setBdState .expect s) := runBlock_of_state (o := .foundLong) hb rfl rfl
  have hmedium : runBlock .medium 0 (setBdState .expect s) =
      .next (emit .blockStart (clearAcc (setPh false (setBdState .read s)))) :=
    runBlock_of_state (s := setBdState .expect s) (o := .start) rfl rfl rfl
  rw [startMarker, bare, bare, runSymbols_cons hrun hlong, runSymbols_cons (s := setBdState .expect s) hrun hmedium]
  rfl

/-- The first symbol of a pair held (R165). -/
def latched (c : SymCode) (s : State) : State := { s with bd := { s.bd with hCode := c, hW := 0, ph := true } }

/-- The first symbol of a pair in `READ` is held. -/
theorem runBlock_latch {s : State} (c : SymCode) (hb : s.bd.bdState = .read) (hp : s.bd.ph = false) :
    runBlock c 0 s = .next (latched c s) :=
  runBlock_of_state (o := .latch) hb hp rfl

/-- The pair of a bit appends it (R166, R167). -/
theorem runSymbols_bitPair (bit : Bool) {s : State} (hrun : s.run = .run) (hb : s.bd.bdState = .read) (hp : s.bd.ph = false) :
    ∃ a, runSymbols (bitPair bit) s = .next (setPh false (appendBit bit (latched a s))) := by
  cases bit with
  | false =>
    have hpair : runBlock .medium 0 (latched .short s) = .next (setPh false (appendBit false (latched .short s))) :=
      runBlock_of_state (s := latched .short s) (o := .bit0) hb rfl rfl
    refine ⟨.short, ?_⟩
    change runSymbols [(.short, 0), (.medium, 0)] s = _
    rw [runSymbols_cons hrun (runBlock_latch .short hb hp), runSymbols_cons (s := latched .short s) hrun hpair]
    rfl
  | true =>
    have hpair : runBlock .short 0 (latched .medium s) = .next (setPh false (appendBit true (latched .medium s))) :=
      runBlock_of_state (s := latched .medium s) (o := .bit1) hb rfl rfl
    refine ⟨.medium, ?_⟩
    change runSymbols [(.medium, 0), (.short, 0)] s = _
    rw [runSymbols_cons hrun (runBlock_latch .medium hb hp), runSymbols_cons (s := latched .medium s) hrun hpair]
    rfl

/-- The state `s` is the state `s₀` in `READ`, between pairs, with the bits `l` in the accumulator, the first received in bit 0. -/
structure Received (s₀ : State) (l : List Bool) (s : State) : Prop where
  rest : s = { s₀ with bd := s.bd }
  state : s.bd.bdState = .read
  phase : s.bd.ph = false
  count : s.bd.nbits.val = l.length
  bits : ∀ i, i < 9 → s.bd.acc.getLsbD i = l.getD i false

/-- One more element at the end of a list of bits, read with `false` beyond it. -/
theorem getD_snoc (l : List Bool) (bit : Bool) (i : Nat) :
    (l ++ [bit]).getD i false = if i = l.length then bit else l.getD i false := by
  rcases Nat.lt_trichotomy i l.length with h | rfl | h
  · rw [List.getD_append _ _ _ _ h, if_neg (Nat.ne_of_lt h)]
  · simp
  · have hbeyond : (l ++ [bit]).length ≤ i := by simpa using h
    rw [if_neg (Nat.ne_of_gt h), List.getD_eq_default _ _ hbeyond, List.getD_eq_default _ _ h.le]

/-- A bit is received after those before it, up to nine (R168). -/
theorem received_bitPair {s₀ s : State} {l : List Bool} (h : Received s₀ l s) (hrun : s₀.run = .run) (hl : l.length < 9)
    (bit : Bool) : ∃ t, runSymbols (bitPair bit) s = .next t ∧ Received s₀ (l ++ [bit]) t := by
  have hrun' : s.run = .run := by rw [h.rest]; exact hrun
  obtain ⟨a, ha⟩ := runSymbols_bitPair bit hrun' h.state h.phase
  have hcount : (latched a s).bd.nbits.val = l.length := h.count
  refine ⟨_, ha, ?_, h.state, rfl, ?_, fun i hi => ?_⟩
  · conv_lhs => rw [h.rest]
    rfl
  · change (appendBit bit (latched a s)).bd.nbits.val = _
    rw [appendBit_nbits_val, hcount, List.length_append, List.length_singleton]
    omega
  · change (appendBit bit (latched a s)).bd.acc.getLsbD i = _
    rw [getLsbD_appendBit bit (hcount.symm ▸ hl) hi, hcount, getD_snoc]
    exact if_congr Iff.rfl rfl (h.bits i hi)

/-- A list of bits is received in order. -/
theorem received_bitPairs {s₀ : State} (hrun : s₀.run = .run) (new : List Bool) {s : State} {l : List Bool} (h : Received s₀ l s)
    (hl : (l ++ new).length ≤ 9) : ∃ t, runSymbols (new.flatMap bitPair) s = .next t ∧ Received s₀ (l ++ new) t := by
  induction new generalizing s l with
  | nil => exact ⟨s, rfl, by rwa [List.append_nil]⟩
  | cons bit new ih =>
    have hroom : l.length < 9 := by
      rw [List.length_append, List.length_cons] at hl
      omega
    obtain ⟨u, hu, hreceived⟩ := received_bitPair h hrun hroom bit
    have happend : l ++ bit :: new = l ++ [bit] ++ new := by simp
    obtain ⟨t, ht, hall⟩ := ih hreceived (happend ▸ hl)
    have hurun : u.run = .run := by rw [hreceived.rest]; exact hrun
    refine ⟨t, ?_, happend ▸ hall⟩
    rw [List.flatMap_cons, runSymbols_append hu hurun, ht]

/-- The nine bits sent for a byte with the parity bit `p`. -/
def sentBits (v : Byte) (p : Bool) : List Bool := (List.range 8).map (fun i => v.getLsbD i) ++ [p]

/-- Their pairs are those of R98. -/
theorem flatMap_sentBits (v : Byte) (p : Bool) : (sentBits v p).flatMap bitPair = dataPairs v ++ bitPair p := by
  simp [sentBits, dataPairs, List.flatMap_append, List.flatMap_map]

/-- The data bits stand first. -/
theorem sentBits_getD {v : Byte} {p : Bool} {i : Nat} (hi : i < 8) : (sentBits v p).getD i false = v.getLsbD i := by
  rw [sentBits, List.getD_append _ _ _ _ (by simpa using hi)]
  simp [List.getD, hi]

/-- The byte of an accumulator that holds the bits sent is the byte sent (R171). -/
theorem accByte_of_sentBits {a : Acc} {v : Byte} {p : Bool} (h : ∀ i, i < 9 → a.getLsbD i = (sentBits v p).getD i false) :
    accByte a = v := by
  apply BitVec.eq_of_getLsbD_eq
  intro i hi
  rw [getLsbD_accByte a hi, h i (by omega), sentBits_getD hi]

/-- The ones among the bits sent are those of the byte and the parity bit. -/
theorem popcount_of_sentBits {a : Acc} {v : Byte} {p : Bool} (h : ∀ i, i < 9 → a.getLsbD i = (sentBits v p).getD i false) :
    popcount a = byteOnes v + p.toNat := by
  have hparity : a.getLsbD 8 = p := by rw [h 8 (by omega)]; simp [sentBits]
  have hdata : ∀ i ∈ List.range 8, (a.getLsbD i).toNat = (v.getLsbD i).toNat := by
    intro i hi
    have hi' := List.mem_range.mp hi
    rw [h i (by omega), sentBits_getD hi']
  rw [popcount, List.range_succ, List.map_append, List.sum_append, List.map_congr_left hdata, ← byteOnes, List.map_singleton,
    List.sum_singleton, hparity]

/-- With `PAR(v)` the ones are odd in number, with the inverted bit they are even. -/
theorem parOk_of_sentBits {a : Acc} {v : Byte} {p : Bool} (h : ∀ i, i < 9 → a.getLsbD i = (sentBits v p).getD i false) :
    parOk a = (p == parityFor v) := by
  rw [parOk, popcount_of_sentBits h, parityFor]
  rcases Nat.mod_two_eq_zero_or_one (byteOnes v) with he | he <;> cases p <;> simp [Nat.add_mod, he]

/-- `START` and the nine bits of a byte from the search for a leader: the block is open and the bits are received. -/
theorem received_start_sentBits {s : State} (hrun : s.run = .run) (hb : s.bd.bdState = .seek) (v : Byte) (p : Bool) :
    ∃ t, runSymbols (startMarker ++ (dataPairs v ++ bitPair p)) s = .next t ∧
      Received (emit .blockStart s) (sentBits v p) t := by
  have hempty : Received (emit .blockStart s) [] (emit .blockStart (clearAcc (setPh false (setBdState .read s)))) :=
    ⟨rfl, rfl, rfl, rfl, by simp⟩
  obtain ⟨t, ht, hreceived⟩ := received_bitPairs (s₀ := emit .blockStart s) hrun (sentBits v p) hempty (by simp [sentBits])
  have hopen : (emit .blockStart (clearAcc (setPh false (setBdState .read s)))).run = .run := hrun
  refine ⟨t, ?_, hreceived⟩
  rw [runSymbols_append (runSymbols_startMarker hrun hb) hopen, ← flatMap_sentBits, ht]

/-- The byte marker after received bits is the byte marker's operation with `Long` held (R165, R169). -/
theorem runSymbols_byteMarker {s₀ s : State} {l : List Bool} (h : Received s₀ l s) (hrun : s₀.run = .run) :
    runSymbols byteMarker s = exec .bdByteEnd (latched .long s) := by
  have hrun' : s.run = .run := by rw [h.rest]; exact hrun
  have hpair : runBlock .medium 0 (latched .long s) = exec .bdByteEnd (latched .long s) :=
    runBlock_of_state (s := latched .long s) (o := .byteEnd) h.state rfl rfl
  obtain ⟨t, ht⟩ := runBlock_next .medium 0 (latched .long s)
  change runSymbols [(.long, 0), (.medium, 0)] s = _
  rw [runSymbols_cons hrun' (runBlock_latch .long h.state h.phase), runSymbols_cons (s := latched .long s) hrun' ht, ← hpair, ht]
  rfl

end Sys2Proof.Machine
end

section
/-! A byte sent as symbols, with the right and with the wrong parity bit (spec/95_test_vectors.md SRC-4, SRC-5). -/

namespace Sys2Proof.Machine

/-- Settles O40: the nine bits sent are received, their ones are odd in number, and the byte marker emits the byte. -/
theorem byteRoundTrip : Obligations.ByteRoundTrip := by
  unfold Obligations.ByteRoundTrip
  intro s v hrun hb
  obtain ⟨u, hu, hreceived⟩ := received_start_sentBits hrun hb v (parityFor v)
  have hurun : u.run = .run := by rw [hreceived.rest]; exact hrun
  have hodd : parOk (latched .long u).bd.acc = true := by
    rw [show (latched .long u).bd.acc = u.bd.acc from rfl, parOk_of_sentBits hreceived.bits, beq_self_eq_true]
  have hbyte := exec_bdByteEnd_of_parity_odd (s := latched .long u) hreceived.count hodd
  refine ⟨setPh false (clearAcc (emit (.byte (accByte u.bd.acc)) (latched .long u))), ?_, ?_, hurun, hreceived.state, rfl, rfl,
    rfl, ?_⟩
  · rw [byteSymbols, ← List.append_assoc, runSymbols_append hu hurun,
      runSymbols_byteMarker (s₀ := emit .blockStart s) hreceived hrun]
    exact hbyte
  · change u.trace ++ [.byte (accByte u.bd.acc)] = _
    rw [accByte_of_sentBits hreceived.bits, hreceived.rest]
    simp
  · change u.err = _
    rw [hreceived.rest]
    rfl

/-- Settles O41: with the inverted bit the ones are even in number, and the byte marker is the trap entry with the nine bits. -/
theorem flippedParityIsRejected : Obligations.FlippedParityIsRejected := by
  unfold Obligations.FlippedParityIsRejected
  intro s v hrun hb
  obtain ⟨u, hu, hreceived⟩ := received_start_sentBits hrun hb v (!parityFor v)
  have hurun : u.run = .run := by rw [hreceived.rest]; exact hrun
  have hpos : u.pos = s.pos := by rw [hreceived.rest]; rfl
  have heven : parOk (latched .long u).bd.acc = false := by
    rw [show (latched .long u).bd.acc = u.bd.acc from rfl, parOk_of_sentBits hreceived.bits]
    simp
  have hfatal := exec_bdByteEnd_of_parity_even (s := latched .long u) hreceived.count heven
  refine ⟨raiseFatal .parity { acc := u.bd.acc } (latched .long u), { acc := u.bd.acc }, ?_, ?_, rfl, rfl,
    accByte_of_sentBits hreceived.bits, hpos⟩
  · rw [byteSymbolsBadParity, ← List.append_assoc, runSymbols_append hu hurun,
      runSymbols_byteMarker (s₀ := emit .blockStart s) hreceived hrun]
    exact hfatal
  · change u.trace ++ [.fatal .parity { acc := u.bd.acc } u.pos] = _
    rw [hpos, hreceived.rest]
    simp

end Sys2Proof.Machine
end

section
/-! SUPPORT. What the block decoder does not read: the widths that travel with symbols (spec/30_encoding.md R84), as the state without
them, which every operation commutes with; and the held symbol between pairs (spec/10_state.md R32). -/

namespace Sys2Proof.Machine

/-- The state without widths after an event has the event without its width. -/
theorem eraseWidths_emit (e : Event) (s : State) : eraseWidths (emit e s) = emit e.eraseWidth (eraseWidths s) := by
  simp [eraseWidths, emit]

/-- The trap entry without the widths it records. -/
theorem eraseWidths_raiseFatal (code : ErrCode) (info : ErrInfo) (s : State) :
    eraseWidths (raiseFatal code info s) = raiseFatal code { info with aW := 0, bW := 0 } (eraseWidths s) := by
  simp [eraseWidths, raiseFatal, emit, Event.eraseWidth]

/-- A symbol of any width does to the state without widths what it does to the state, as a symbol of width 0. -/
theorem runBlock_eraseWidths {c : SymCode} {w : Width} {s t : State} (h : runBlock c w s = .next t) :
    runBlock c 0 (eraseWidths s) = .next (eraseWidths t) := by
  have hop : runBlock c 0 (eraseWidths s) =
      exec ((blockOp s.bd.bdState s.bd.ph s.bd.hCode c).instr c 0) (eraseWidths s) := runBlock_eq _ _ _
  rw [hop]
  rw [runBlock_eq] at h
  cases ho : blockOp s.bd.bdState s.bd.ph s.bd.hCode c with
  | skip | foundLong | latch | bit0 | bit1 =>
    rw [ho] at h
    cases h
    rfl
  | start | dataEnd =>
    rw [ho] at h
    cases h
    rw [eraseWidths_emit]
    rfl
  | errExpectedM | badPair =>
    rw [ho] at h
    cases h
    rw [eraseWidths_raiseFatal]
    rfl
  | byteEnd =>
    rw [ho] at h
    simp only [BdOp.instr, exec, execBdByteEnd] at h ⊢
    have hbits : (eraseWidths s).bd.nbits = s.bd.nbits := rfl
    have hacc : (eraseWidths s).bd.acc = s.bd.acc := rfl
    rw [hbits, hacc]
    split_ifs at h ⊢ <;> cases h
    · rw [eraseWidths_raiseFatal]
    · rw [eraseWidths_raiseFatal]
    · rw [eraseWidths_raiseFatal]
    · exact congrArg Host.Outcome.next (congrArg (fun u => setPh false (clearAcc u)) (eraseWidths_emit (.byte _) s).symm)

/-- Between pairs, and outside `READ`, the operation does not depend on the symbol held, and is none of a pair's (R94). -/
theorem blockOp_between (b : BdState) (a c : SymCode) :
    blockOp b false a c = blockOp b false .short c ∧
      blockOp b false .short c ∈ [BdOp.skip, .foundLong, .start, .errExpectedM, .latch] := by
  cases b with
  | seek | expect => simp only [blockOp]; split_ifs <;> simp
  | read => simp [blockOp]

/-- Between pairs a symbol does the same whatever symbol is held, but for the symbol held. -/
theorem runBlock_eraseHeld {c : SymCode} {w : Width} {s : State} (hp : s.bd.ph = false) (a : SymCode) (x : Width) :
    ∃ t t', runBlock c w s = .next t ∧ runBlock c w { s with bd := { s.bd with hCode := a, hW := x } } = .next t' ∧
      eraseHeld t = eraseHeld t' := by
  have hs : runBlock c w s = exec ((blockOp s.bd.bdState false .short c).instr c w) s :=
    runBlock_of_state rfl hp (blockOp_between _ _ _).1
  have hs' : runBlock c w { s with bd := { s.bd with hCode := a, hW := x } } =
      exec ((blockOp s.bd.bdState false .short c).instr c w) { s with bd := { s.bd with hCode := a, hW := x } } :=
    runBlock_of_state rfl hp (blockOp_between _ _ _).1
  have hmem := (blockOp_between s.bd.bdState .short c).2
  rw [hs, hs']
  cases ho : blockOp s.bd.bdState false .short c with
  | skip | foundLong | start | errExpectedM | latch => exact ⟨_, _, rfl, rfl, rfl⟩
  | bit0 | bit1 | byteEnd | dataEnd | badPair => simp [ho] at hmem

/-- Two states that agree but for the symbol held. -/
theorem eq_of_eraseHeld {s s' : State} (h : eraseHeld s = eraseHeld s') :
    s' = { s with bd := { s.bd with hCode := s'.bd.hCode, hW := s'.bd.hW } } := by
  have hrest : { eraseHeld s' with bd := s'.bd } = { eraseHeld s with bd := s'.bd } := by rw [h]
  have hbd : { (eraseHeld s').bd with hCode := s'.bd.hCode, hW := s'.bd.hW } =
      { (eraseHeld s).bd with hCode := s'.bd.hCode, hW := s'.bd.hW } := by rw [h]
  calc s' = { eraseHeld s' with bd := s'.bd } := rfl
    _ = { eraseHeld s with bd := s'.bd } := hrest
    _ = _ := congrArg (fun bd : BlkRegs => { eraseHeld s with bd := bd }) hbd

end Sys2Proof.Machine
end

section
/-! The block decoder's decisions (spec/30_encoding.md R84, spec/10_state.md R32). -/

namespace Sys2Proof.Machine

/-- Settles O42: both states without widths answer the symbol of width 0 alike. -/
theorem symbolWidthDecidesNothing : Obligations.SymbolWidthDecidesNothing := by
  unfold Obligations.SymbolWidthDecidesNothing
  intro s s' t c w w' hs h
  obtain ⟨t', ht'⟩ := runBlock_next c w' s'
  have herased := runBlock_eraseWidths h
  rw [hs, runBlock_eraseWidths ht'] at herased
  exact ⟨t', ht', (Host.Outcome.next.inj herased).symm⟩

/-- Settles O43: the other state has another symbol held, which no operation between pairs reads. -/
theorem heldSymbolIsUnreadBetweenPairs : Obligations.HeldSymbolIsUnreadBetweenPairs := by
  unfold Obligations.HeldSymbolIsUnreadBetweenPairs
  intro s s' t c w hp hs h
  obtain ⟨u, u', hu, hu', herased⟩ := runBlock_eraseHeld (c := c) (w := w) hp s'.bd.hCode s'.bd.hW
  rw [eq_of_eraseHeld hs]
  obtain rfl := Host.Outcome.next.inj (h.symm.trans hu)
  exact ⟨u', hu', herased⟩

end Sys2Proof.Machine
end

section
/-! SUPPORT. The inputs still to come decide nothing in an operation (log entry 1), so two machines that agree do the same at an edge
with the same inputs. -/

namespace Sys2Proof.Machine

/-- Other inputs to come. -/
def withStim (cs : List Cycle) (s : State) : State := { s with stim := cs }

/-- A block decoder operation does not read the inputs to come. -/
theorem runBlock_withStim {c : SymCode} {w : Width} {s t : State} (cs : List Cycle) (h : runBlock c w s = .next t) :
    runBlock c w (withStim cs s) = .next (withStim cs t) := by
  have hop : runBlock c w (withStim cs s) =
      exec ((blockOp s.bd.bdState s.bd.ph s.bd.hCode c).instr c w) (withStim cs s) := runBlock_eq _ _ _
  rw [hop]
  rw [runBlock_eq] at h
  cases ho : blockOp s.bd.bdState s.bd.ph s.bd.hCode c with
  | skip | foundLong | start | errExpectedM | latch | bit0 | bit1 | dataEnd | badPair =>
    rw [ho] at h
    cases h
    rfl
  | byteEnd =>
    rw [ho] at h
    simp only [BdOp.instr, exec, execBdByteEnd] at h ⊢
    have hbd : (withStim cs s).bd = s.bd := rfl
    rw [hbd]
    split_ifs at h ⊢ <;> cases h <;> rfl

/-- Nor does a width downstream. -/
theorem runWidth_withStim {w : Width} {s t : State} (cs : List Cycle) (h : runWidth w s = .next t) :
    runWidth w (withStim cs s) = .next (withStim cs t) := by
  unfold runWidth at h ⊢
  rw [runCls_eq, runCal_eq] at h ⊢
  have hcls : (withStim cs s).cls = s.cls := rfl
  have hlast : calLast (withStim cs s) = calLast s := rfl
  rw [hcls, hlast]
  split_ifs at h ⊢
  · exact runBlock_withStim cs h
  · cases h; rfl
  · cases h; rfl

/-- Nor do the units on a sample. -/
theorem runEdge_withStim {v : Sample} {s t : State} (cs : List Cycle) (h : runEdge v s = .next t) :
    runEdge v (withStim cs s) = .next (withStim cs t) := by
  rw [runEdge_eq] at h ⊢
  have hed : (withStim cs s).ed = s.ed := rfl
  have hmax : cntMax (withStim cs s) = cntMax s := rfl
  have hcfg : (withStim cs s).cfg = s.cfg := rfl
  rw [hed, hmax, hcfg]
  split_ifs at h ⊢
  · cases h; rfl
  · cases h; rfl
  · exact runWidth_withStim cs h
  · cases h; rfl

/-- Nor does a sample. -/
theorem execSample_withStim {v : Sample} {s t : State} (cs : List Cycle) (h : execSample v s = .next t) :
    execSample v (withStim cs s) = .next (withStim cs t) := by
  obtain ⟨u, hu, rfl⟩ := execSample_cases h
  exact execSample_eq (runEdge_withStim cs hu)

/-- Nor does the operation a clock edge selects. -/
theorem exec_edgeInstr_withStim {s₀ s t : State} (cs : List Cycle) (h : exec (edgeInstr s₀) s = .next t) :
    exec (edgeInstr s₀) (withStim cs s) = .next (withStim cs t) := by
  simp only [edgeInstr] at h ⊢
  split_ifs at h ⊢
  · cases h; rfl
  · cases h; rfl
  · cases h; rfl
  · cases h; rfl
  · obtain ⟨u, hu, hend⟩ := execSampleEos_cases h
    have hsample := execSampleEos_eq (execSample_withStim cs hu)
    rcases hend with ⟨hr, he⟩ | ⟨hr, rfl⟩
    · cases he
      exact hsample.trans (if_pos hr)
    · exact hsample.trans (if_neg hr)
  · exact execSample_withStim cs h

/-- A machine that agrees with another is that one with other inputs to come and other strobes. -/
theorem eq_of_sameMachine {s t : State} (h : SameMachine s t) : t = { s with stim := t.stim, out := t.out } := by
  cases t
  simp only [SameMachine] at h
  obtain ⟨rfl, rfl, rfl, rfl, rfl, rfl, rfl, rfl, rfl⟩ := h
  rfl

/-- Machines that agree agree after an edge with the same inputs, and the inputs to come are those that were left. -/
theorem step_sameMachine {s s' : State} (h : SameMachine s s') (hv : s.cfg.Valid) (c : Cycle) (cs cs' : List Cycle) :
    ∃ t t', step (withStim (c :: cs) s) = .next (withStim cs t) ∧ step (withStim (c :: cs') s') = .next (withStim cs' t') ∧
      SameMachine t t' ∧ t.cfg.Valid := by
  obtain ⟨t, ht⟩ := exec_edgeInstr_next (withStim (c :: cs) s) (advance (withStim (c :: cs) s))
  obtain ⟨hcfg, hstim⟩ := configurationIsNeverWritten _ _ _ ht
  have hleft : withStim cs t = t := by
    change { t with stim := cs } = t
    rw [show cs = t.stim from hstim.symm]
  rw [eq_of_sameMachine h]
  exact ⟨t, t, by rw [hleft]; exact (step_eq (s := withStim (c :: cs) s) hv).trans ht,
    (step_eq (s := withStim (c :: cs') _) hv).trans (exec_edgeInstr_withStim cs' ht),
    ⟨rfl, rfl, rfl, rfl, rfl, rfl, rfl, rfl, rfl⟩, hcfg.symm ▸ hv⟩

/-- The machine's run by its first step. -/
theorem run_succ {s t : State} (h : step s = .next t) (k : Nat) : Sys2Proof.core.run (k + 1) s = Sys2Proof.core.run k t := by
  have hstep : Sys2Proof.core.step s = .next t := h
  simp only [Host.Core.run, hstep]

/-- Machines that agree agree after a stimulus and the same stimulus without its quiet cycles. -/
theorem run_filter_active (cs : List Cycle) {s s' : State} (h : SameMachine s s') (hv : s.cfg.Valid) :
    ∃ t u : State, Sys2Proof.core.run cs.length (withStim cs s) = .next t ∧
      Sys2Proof.core.run (cs.filter Cycle.active).length (withStim (cs.filter Cycle.active) s') = .next u ∧
      SameMachine t u := by
  induction cs generalizing s s' with
  | nil => exact ⟨_, _, rfl, rfl, h⟩
  | cons c cs ih =>
    cases hc : c.active with
    | false =>
      have hstep : step (withStim (c :: cs) s) = .next (withStim cs { s with out := [] }) :=
        step_of_quiet (s := withStim (c :: cs) s) hv hc
      rw [List.filter_cons_of_neg (by simp [hc]), List.length_cons, run_succ hstep]
      exact ih h hv
    | true =>
      obtain ⟨t, t', ht, ht', hsame, hvalid⟩ := step_sameMachine h hv c cs (cs.filter Cycle.active)
      rw [List.filter_cons_of_pos hc, List.length_cons, List.length_cons, run_succ ht, run_succ ht']
      exact ih hsame hvalid

end Sys2Proof.Machine
end

section
/-! Quiet cycles over a whole stimulus (spec/44_top_level.md R194). -/

namespace Sys2Proof.Machine

/-- Settles O51: a quiet cycle only takes its inputs, and what follows does the same after it. -/
theorem idleCyclesAreInvisible : Obligations.IdleCyclesAreInvisible := by
  unfold Obligations.IdleCyclesAreInvisible
  intro s cs hv
  exact run_filter_active cs (s := s) (s' := s) (by simp [SameMachine]) hv

end Sys2Proof.Machine
end
